-- ==== Sys2Proof/Word.lean ====
section
/-! DEFINITION. The word, byte and counter types (spec/00_scope.md R8, R12, R13) and nothing a test could
show wrong: every operation on them stands under Sys2Proof/Machine. -/

namespace Sys2Proof

/-- A 32-bit unsigned word (R8: "word width: 32 bits, unsigned"). -/
abbrev Word := BitVec 32

/-- A byte, "an unsigned 8-bit value" (R13). -/
abbrev Byte := BitVec 8

/-- The Byte Counter's type: 64 bits, unsigned (R8, R24). -/
abbrev ByteCount := BitVec 64

/-- A hash value: eight 32-bit words, indexed 0 to 7 (R8 "hash state: 8 words", R23). -/
abbrev HashValue := Vector Word 8

end Sys2Proof
end

