-- ==== Sys2Proof/Config.lean ====
section
/-! DEFINITION. What the spec leaves to the implementation or the platform: parameters with no value of their own
(R10, R49, R72), and the one free value of the model (a host variable that no RD has assigned). None has a body,
so no proof can see a value of it. The constant tables K, IV and ID are not open: they stand in
Sys2Proof/Machine/Constants.lean. -/

namespace Sys2Proof

/-- One less than `T_BLOCK`, so that `T_BLOCK` is positive whatever this is (R10; OPEN, D20). -/
opaque Config.tBlockPred : Nat

/-- `T_BLOCK`, the clock cycles of one compression: "a positive natural number" (R10, R211). No rule depends on it,
and no step of the model reads it. -/
def Config.tBlock : Nat := Config.tBlockPred + 1

/-- `N_INST`, the number of independent instances in a system (R10, R197; OPEN, D21). -/
opaque Config.nInst : Nat

/-- The index of the 256-byte page at which the platform maps the register window (R72). -/
opaque Config.basePage : Nat

/-- BASE, "a multiple of 256, chosen by the system that instantiates the block" (R72). -/
def Config.base : Nat := 256 * Config.basePage

/-- FREE VALUE (notes/assumptions/6.md): what a BNZ sees in a host variable that no RD has assigned. R101 gives no
value for it. -/
opaque Config.unassignedVar : Nat → Word

end Sys2Proof
end

