-- ==== Sys2Proof/Syntax.lean ====
section
/-! DEFINITION. The commands of the opcode map (spec/30_encoding.md R95): one constructor a row of
spec/opcode_table.json. -/

namespace Sys2Proof

/-- A command of the block (R95). LEN is the only field a command carries; its other operand, DATA_IN, is a register
read at acceptance (R94). -/
inductive Instr where
  /-- NOP, 0x00000000 (R153). -/
  | nop
  /-- INIT, 0x00000001 (R154). -/
  | init
  /-- FEED `len + 1`, 0x00000002 | (len << 8) (R155). -/
  | feed (len : BitVec 2)
  /-- DIGEST, 0x00000003 (R157). -/
  | digest
  /-- CLRERR, 0x00000004 (R158). -/
  | clrerr
  deriving DecidableEq, Repr

end Sys2Proof
end

