-- ==== Sys2Proof/Decode.lean ====
section
/-! DEFINITION. The command word: its fields (R92), the decoder of R96 as a total function that rejects by name
(R97, R98), the opcode map as mask and match rows (R95), and the encoder (R95, R102). -/

namespace Sys2Proof

/-- Why a command word selects no command: R97 and R98. -/
inductive Reject where
  /-- OPCODE in 0x05..0xFF, whatever the other bits (R97). -/
  | illegalOp
  /-- A defined OPCODE with RSV != 0, or with LEN != 0 on an opcode other than FEED (R98). -/
  | reservedBits
  deriving DecidableEq, Repr

/-- OPCODE, bits 7:0 (R92). -/
def opcodeField (v : Word) : BitVec 8 := v.extractLsb' 0 8

/-- LEN, bits 9:8 (R92). -/
def lenField (v : Word) : BitVec 2 := v.extractLsb' 8 2

/-- RSV, bits 31:10 (R92). -/
def rsvField (v : Word) : BitVec 22 := v.extractLsb' 10 22

/-- The tests of R96 after the BUSY test, in R96's order, then the row of R95. -/
def decode (v : Word) : Except Reject Instr :=
  if 0x04 < (opcodeField v).toNat then .error .illegalOp
  else if rsvField v ≠ 0 ∨ (opcodeField v ≠ 0x02 ∧ lenField v ≠ 0) then .error .reservedBits
  else
    match (opcodeField v).toNat with
    | 0 => .ok .nop
    | 1 => .ok .init
    | 2 => .ok (.feed (lenField v))
    | 3 => .ok .digest
    | _ => .ok .clrerr

/-- The command word of each command (R95, R102): RSV, then LEN, then OPCODE. -/
def encode : Instr → Word
  | .nop => 0x00000000
  | .init => 0x00000001
  | .feed len => (0 : BitVec 22) ++ len ++ (0x02 : BitVec 8)
  | .digest => 0x00000003
  | .clrerr => 0x00000004

/-- A row of the opcode map. -/
structure OpcodeRow where
  mnemonic : String
  pattern : Word
  mask : Word
  deriving DecidableEq, Repr

/-- "A word `v` selects a row when `(v & mask) = match`" (R95). -/
def OpcodeRow.selects (row : OpcodeRow) (v : Word) : Bool := (v &&& row.mask) == row.pattern

/-- The row of the opcode map that a command belongs to (R95's table, row by row). -/
def opcodeRow : Instr → OpcodeRow
  | .nop => ⟨"NOP", 0x00000000, 0xFFFFFFFF⟩
  | .init => ⟨"INIT", 0x00000001, 0xFFFFFFFF⟩
  | .feed _ => ⟨"FEED", 0x00000002, 0xFFFFFCFF⟩
  | .digest => ⟨"DIGEST", 0x00000003, 0xFFFFFFFF⟩
  | .clrerr => ⟨"CLRERR", 0x00000004, 0xFFFFFFFF⟩

/-- The opcode map of R95. -/
def opcodeTable : List OpcodeRow :=
  [opcodeRow .nop, opcodeRow .init, opcodeRow (.feed 0), opcodeRow .digest, opcodeRow .clrerr]

/-- The command this decoder reads from a command word given as a number. A command word has 32 bits and there is no
other length (R91, R100), so a longer word, or a number that does not fit the bits given, is refused. -/
def decodeTableWord (nbits w : Nat) : Option Instr :=
  if nbits ≤ 32 ∧ w < 2 ^ nbits then
    match decode (BitVec.ofNat 32 w) with
    | .ok i => some i
    | .error _ => none
  else none

end Sys2Proof
end

