-- ==== Sys2Proof/Machine/HostSyntax.lean ====
section
/-! DEFINITION. The host agent's language (spec/30_encoding.md R101) and the names of the register window
(spec/20_memory.md R62). The host is the single bus master (R11); its programs are not commands of the block. -/

namespace Sys2Proof.Machine

/-- The named registers of the window (R62). The other offsets are reserved (R65) and have no name. -/
inductive Reg where
  | id | status | cmd | dataIn | countLo | countHi | bufLen
  /-- DIGEST0 to DIGEST7. -/
  | digest (j : Fin 8)
  deriving DecidableEq, Repr

/-- A line of a host program (R101). Labels and host variables are numbered. A register is given by its byte offset in the
window, so that the raw form `@0xNN` is covered too. Comments carry no meaning and are not represented. -/
inductive HostLine where
  /-- `name:` -/
  | label (name : Nat)
  /-- `WR <reg>, <imm32>`: BusWrite(offset, imm). -/
  | wr (offset : BitVec 8) (imm : Word)
  /-- `RD <reg> -> <var>`: var := BusRead(offset). -/
  | rd (offset : BitVec 8) (var : Nat)
  /-- `BNZ <var>, <mask>, <label>`. -/
  | bnz (var : Nat) (mask : Word) (target : Nat)
  /-- `HALT`. -/
  | halt
  deriving DecidableEq, Repr

end Sys2Proof.Machine
end

