-- ==== Sys2Proof/Machine/State.lean ====
section
/-! DEFINITION. The state of one instance, as plain data: the block itself (`Device`, every element of
spec/10_state.md R48), the host agent that drives its bus (R11, R101), the reset pin, and the schedule that says which agent
moves next (R11: the interleaving is free). Memory: the block has none (spec/20_memory.md R61). -/

namespace Sys2Proof.Machine

/-- STATUS.PHASE (R31). -/
inductive Phase where
  | idle | comp | fin1 | fin2
  deriving DecidableEq, Repr

/-- The named error codes of R182. -/
inductive ErrCode where
  | busy | illegalOp | reservedBits | length
  deriving DecidableEq, Repr

/-- The working registers a..h of the compression (R42). -/
structure Working where
  a : Word
  b : Word
  c : Word
  d : Word
  e : Word
  f : Word
  g : Word
  h : Word
  deriving DecidableEq, Repr

/-- Everything the spec gives the block (R48). STATUS.BUSY is not stored: it "always equals `(PHASE != 0)`" (R29). -/
structure Device where
  /-- H[0..7], the live hash state (R23). -/
  hash : HashValue
  /-- COUNT, the Byte Counter (R24). -/
  count : ByteCount
  /-- CACHE, the Input Buffer, oldest byte first (R25). -/
  cache : List Byte
  /-- DATA_IN (R34). -/
  dataIn : Word
  /-- DIGEST0..7 (R37). -/
  digest : HashValue
  /-- STATUS.DVALID (R30). -/
  dvalid : Bool
  /-- STATUS.PHASE (R31). -/
  phase : Phase
  /-- STATUS.ERR, a 4-bit error code, 0 for none (R32, R182). -/
  err : BitVec 4
  /-- HF[0..7], the finalization copy of H (R44). -/
  hf : HashValue
  /-- FB, the finalization buffer of 64 or 128 bytes (R44). -/
  fb : List Byte
  /-- The working registers a..h (R42). -/
  work : Working
  /-- The Message Schedule W[0..63] (R43). -/
  sched : List Word
  /-- RND, the round counter (R45). -/
  rnd : BitVec 6
  deriving DecidableEq, Repr

/-- The host agent: the program it runs (R101), the line it takes next, its variables (variable number and value, strictly
rising numbers, no entry for a variable not yet assigned), and whether it has reached HALT. -/
structure HostAgent where
  program : List HostLine
  pc : Nat
  vars : List (Nat × Word)
  halted : Bool
  deriving DecidableEq, Repr

/-- Which agent moves in a step, or what the world outside the instance does to it (notes/assumptions/1.md). -/
inductive Turn where
  /-- The host takes its next program line. -/
  | host
  /-- The engine takes its enabled step, if it has one (R160). -/
  | engine
  /-- One rising clock edge with the `rst_n` pin driven to this level and no bus access (R80, R201). -/
  | rst (level : Bool)
  /-- The instance is powered up. Its state is unspecified until the next reset (R201): whatever `contents` says. -/
  | powerUp (contents : Device)
  /-- A sub-word access is attempted (R63, R64). -/
  | subWord
  /-- A second bus master attempts an access (R197). -/
  | secondHost
  deriving DecidableEq, Repr

/-- One instance with its host and its surroundings. -/
structure State where
  /-- The block. -/
  dev : Device
  /-- The level of the `rst_n` pin: false while reset is held (R80, R201). -/
  rstN : Bool
  /-- Whether the block has been reset since power-up (R201). -/
  resetSeen : Bool
  /-- The host agent (R11). -/
  host : HostAgent
  /-- Whose turn it is, oldest first. When it is used up the machine goes on by `defaultTurn` (notes/assumptions/1.md). -/
  schedule : List Turn
  deriving DecidableEq, Repr

/-- Why the machine stops with a fault. -/
inductive Fault where
  /-- A STATUS read met an ERR code of 5 to 15: "never produced; a model that reads one must fault" (93_implementation_defined.md
  U14, R182). Raised by `Device.readStatus`. Safe: no state that meets the invariant `Device.Inv` raises it. -/
  | reservedErrorCode
  deriving DecidableEq, Repr

/-- What the model gives no meaning to. Each is a case where the spec itself tells a model to refuse. -/
inductive Refusal where
  /-- An instruction that has no meaning yet; said in the dispatch's arms alone. None is left. Safe. -/
  | notModelled (mnemonic : String)
  /-- A host access at an offset that is no multiple of 4: "a model must refuse such an access (treat it as no step)"
  (R63, U11). Raised by `State.access`. Safe. -/
  | misalignedAccess
  /-- A sub-word access (R63, R64, U11). Raised by `takeTurn`. Safe. -/
  | subWordAccess
  /-- An access, or an engine step, before the first reset: a model "must refuse any access made before the first reset" (R201,
  U10). Raised by `State.access` and `State.engineTurn`. Safe. -/
  | beforeFirstReset
  /-- A second host on the instance: "outside this spec, and a model must refuse it" (R197, U1, U13). Raised by `takeTurn`. Safe. -/
  | secondHost
  /-- A BNZ whose target no line of the program defines: R101 gives it no meaning. Raised by `State.runLine`. Safe. -/
  | undefinedLabel
  /-- A system is asked to step an instance it does not have (R197). Raised by `System.stepInstance`. Safe. -/
  | noSuchInstance
  deriving DecidableEq, Repr

/-- The block after reset (R48, R202). DESIGN CHOICE (notes/assumptions/2.md): R48 leaves HF, FB, a..h, W and RND unspecified, and
the model takes zeros. -/
def Device.reset : Device where
  hash := iv
  count := 0
  cache := []
  dataIn := 0
  digest := zeroHash
  dvalid := false
  phase := .idle
  err := 0
  hf := zeroHash
  fb := zeros 64
  work := ⟨0, 0, 0, 0, 0, 0, 0, 0⟩
  sched := List.replicate 64 0
  rnd := 0

/-- The host agent with no program. -/
def HostAgent.empty : HostAgent where
  program := []
  pc := 0
  vars := []
  halted := false

/-- The machine right after reset: the block as R202 says, `rst_n` released, no host program loaded and no turn scheduled. -/
def State.reset : State where
  dev := Device.reset
  rstN := true
  resetSeen := true
  host := HostAgent.empty
  schedule := []

end Sys2Proof.Machine
end

