-- ==== Sys2Proof/Machine/Operands.lean ====
section
/-! DEFINITION. The one operand form of the block: the bytes a FEED takes from DATA_IN (R70, R93, R94). -/

namespace Sys2Proof.Machine

/-- The number of bytes a FEED takes: `n = zext_3(LEN) + 1`, 1 to 4 (R93). -/
def feedCount (len : BitVec 2) : Nat := len.toNat + 1

/-- The four lanes of DATA_IN in feed order: byte k is `DATA_IN[31-8k : 24-8k]`, the most significant first (R70). -/
def lanes (x : Word) : List Byte :=
  [x.extractLsb' 24 8, x.extractLsb' 16 8, x.extractLsb' 8 8, x.extractLsb' 0 8]

/-- The bytes of a FEED: "lanes 0 to `n-1`. The unused low lanes are ignored" (R70, R94). -/
def feedBytes (len : BitVec 2) (x : Word) : List Byte := (lanes x).take (feedCount len)

end Sys2Proof.Machine
end

