-- ==== Sys2Proof/Machine/Flags.lean ====
section
/-! DEFINITION. The status flags (spec/10_state.md R28 to R32, R47): the field codes, BUSY, and the STATUS word. The block has no
condition codes. -/

namespace Sys2Proof.Machine

/-- STATUS.PHASE's encodings (R31): 0 IDLE, 1 COMP, 2 FIN1, 3 FIN2. -/
def Phase.code : Phase → BitVec 2
  | .idle => 0
  | .comp => 1
  | .fin1 => 2
  | .fin2 => 3

/-- The error codes of R182. -/
def ErrCode.code : ErrCode → BitVec 4
  | .busy => 1
  | .illegalOp => 2
  | .reservedBits => 3
  | .length => 4

/-- STATUS.BUSY: "always equals `(PHASE != 0)`" (R29). -/
def Device.busy (d : Device) : Bool := d.phase.code != 0

/-- The 32 bits of STATUS, from bit 31 down: reserved, ERR[11:8], reserved, PHASE[3:2], DVALID[1], BUSY[0] (R28). -/
def Device.statusWord (d : Device) : Word :=
  (0 : BitVec 20) ++ d.err ++ (0 : BitVec 4) ++ d.phase.code ++ BitVec.ofBool d.dvalid ++ BitVec.ofBool d.busy

/-- A read of STATUS. Error codes 5 to 15 are "never produced; a model that reads one must fault" (U14, R182). -/
def Device.readStatus (d : Device) : Except Fault Word :=
  if 5 ≤ d.err.toNat then .error .reservedErrorCode else .ok d.statusWord

end Sys2Proof.Machine
end

