-- ==== Sys2Proof/Machine/Ops.lean ====
section
/-! DEFINITION. The operations every part shares: rotation (R14), the big-endian conversions (R15), error recording and clearing
(R183, R190), which stand where another machine has taking an exception and returning from one (R189: there is no trap), and the
acceptance test that every command begins with (R151, R184). -/

namespace Sys2Proof.Machine

/-- `rotr(x, n) = (x >> n) | (x << (32 - n))`, for 0 < n < 32 (R14). -/
def rotr (x : Word) (n : Nat) : Word := (x >>> n) ||| (x <<< (32 - n))

/-- `be32(s)`: four bytes to a word, the first the most significant (R15). -/
def be32 (b0 b1 b2 b3 : Byte) : Word := b0 ++ b1 ++ b2 ++ b3

/-- `be32enc(x) = [x[31:24], x[23:16], x[15:8], x[7:0]]` (R15). -/
def be32enc (x : Word) : List Byte :=
  [x.extractLsb' 24 8, x.extractLsb' 16 8, x.extractLsb' 8 8, x.extractLsb' 0 8]

/-- `be64enc(v)`: a 64-bit value to eight bytes, "most significant byte first" (R15). -/
def be64enc (v : BitVec 64) : List Byte :=
  be32enc (v.extractLsb' 32 32) ++ be32enc (v.extractLsb' 0 32)

/-- `raise Error(c)` (R183): the first error since the last clear is kept. It stops and redirects nothing. -/
def Device.raise (c : ErrCode) (d : Device) : Device :=
  if d.err = 0 then { d with err := c.code } else d

/-- The clear of STATUS.ERR, by which INIT and CLRERR undo `raise` (R28, R190). -/
def Device.clearErr (d : Device) : Device := { d with err := 0 }

/-- The error that a rejected command word raises (R97, R98, R185, R186). -/
def rejectCode : Reject → ErrCode
  | .illegalOp => .illegalOp
  | .reservedBits => .reservedBits

/-- The state with another block in it; the host, the pin and the schedule stay. -/
def State.setDev (s : State) (d : Device) : State := { s with dev := d }

/-- The state with another host agent in it. -/
def State.setHost (s : State) (h : HostAgent) : State := { s with host := h }

/-- What every command begins with (R151, R184): while BUSY = 1 it is refused and BUSY is raised; at rest it is accepted, with
the effect given. Nothing in a command can stop the machine. -/
def State.present (accept : Device → Device) (s : State) : Host.Outcome State Fault Refusal :=
  .next (s.setDev (if s.dev.busy then s.dev.raise .busy else accept s.dev))

end Sys2Proof.Machine
end

