-- ==== Sys2Proof/Machine/Padding.lean ====
section
/-! DEFINITION. The Padding Builder (spec/40_padding.md). -/

namespace Sys2Proof.Machine

/-- The number z of zero bytes (R113). -/
def padZeros (count : ByteCount) : Nat :=
  let r := count.toNat % 64
  if r < 56 then 55 - r else 119 - r

/-- The length value `L = (count * 8) mod 2^64` (R114). -/
def bitLength (count : ByteCount) : BitVec 64 := BitVec.ofNat 64 (count.toNat * 8)

/-- `pad(count)` (R112, R115). -/
def pad (count : ByteCount) : List Byte :=
  [0x80] ++ zeros (padZeros count) ++ be64enc (bitLength count)

/-- The number N of bytes of the finalization buffer (R117): one block if |CACHE| < 56, else two. -/
def finalLength (cache : List Byte) : Nat := if cache.length < 56 then 64 else 128

/-- `FB[i]` "per byte, as the controller generates them" (R117). -/
def finalByte (cache : List Byte) (count : ByteCount) (i : Nat) : Byte :=
  let r := cache.length
  let n := finalLength cache
  if i < r then cache.getD i 0
  else if i = r then 0x80
  else if i < n - 8 then 0x00
  else (bitLength count).extractLsb' (56 - 8 * (i - (n - 8))) 8

end Sys2Proof.Machine
end

