-- ==== Sys2Proof/Machine/Commands.lean ====
section
/-! DEFINITION. The five commands (spec/43_accumulator.md section 2): the acceptance of each as a function of the block, and its
meaning as an instruction, which is the acceptance at rest and the BUSY refusal otherwise (R151, R184). What a command starts is completed
by the engine's own steps (Machine/Engine.lean). -/

namespace Sys2Proof.Machine

/-- NOP's acceptance: "no effect" (R153). -/
def Device.acceptNop (d : Device) : Device := d

/-- INIT's acceptance (R154). PHASE and DATA_IN are not written. -/
def Device.acceptInit (d : Device) : Device :=
  { d.clearErr with hash := iv, count := 0, cache := [], digest := zeroHash, dvalid := false }

/-- Whether a FEED of n bytes makes the byte total reach 2^61, "sum taken without wrap" (R155, R187). -/
def Device.lengthExceeded (n : Nat) (d : Device) : Bool := 2 ^ 61 ≤ d.count.toNat + n

/-- FEED's acceptance (R155): LENGTH is recorded and "the feed still executes"; the bytes go to CACHE, the count is taken modulo 2^64,
DVALID is cleared, and a full block sets PHASE to COMP. -/
def Device.acceptFeed (len : BitVec 2) (d : Device) : Device :=
  let n := feedCount len
  let d1 := if d.lengthExceeded n then d.raise .length else d
  let cache := d.cache ++ feedBytes len d.dataIn
  { d1 with
    cache := cache
    count := d.count + BitVec.ofNat 64 n
    dvalid := false
    phase := if 64 ≤ cache.length then .comp else d.phase }

/-- DIGEST's acceptance (R157): the snapshot of H and the padded tail. H, COUNT and CACHE are not written. -/
def Device.acceptDigest (d : Device) : Device :=
  { d with dvalid := false, hf := d.hash, fb := d.cache ++ pad d.count, phase := .fin1 }

/-- CLRERR's acceptance (R158). -/
def Device.acceptClrerr (d : Device) : Device := d.clearErr

/-- NOP (R153). -/
def execNop (s : State) : Host.Outcome State Fault Refusal := s.present Device.acceptNop

/-- INIT (R154). -/
def execInit (s : State) : Host.Outcome State Fault Refusal := s.present Device.acceptInit

/-- FEED len + 1 (R155). -/
def execFeed (len : BitVec 2) (s : State) : Host.Outcome State Fault Refusal := s.present (Device.acceptFeed len)

/-- DIGEST (R157). -/
def execDigest (s : State) : Host.Outcome State Fault Refusal := s.present Device.acceptDigest

/-- CLRERR (R158). -/
def execClrerr (s : State) : Host.Outcome State Fault Refusal := s.present Device.acceptClrerr

end Sys2Proof.Machine
end

