-- ==== Sys2Proof/Machine/Dispatch.lean ====
section
/-! DEFINITION. The dispatch: what a command does when it is presented to the block, one arm a constructor. -/

namespace Sys2Proof.Machine

/-- The meaning of each command. -/
def exec (i : Instr) (s : State) : Host.Outcome State Fault Refusal :=
  match i with
  | .nop => Sys2Proof.Machine.execNop s
  | .init => Sys2Proof.Machine.execInit s
  | .feed len => Sys2Proof.Machine.execFeed len s
  | .digest => Sys2Proof.Machine.execDigest s
  | .clrerr => Sys2Proof.Machine.execClrerr s

end Sys2Proof.Machine
end

