-- ==== Sys2Proof/Machine/Bus.lean ====
section
/-! DEFINITION. The register window (spec/20_memory.md), the CMD write (R96) and the ports (R80, R81, R201). It is the one space the
host can address; the block has no memory (R61). -/

namespace Sys2Proof.Machine

/-- The byte offset of a named register (R62). -/
def Reg.offset : Reg → BitVec 8
  | .id => 0x00
  | .status => 0x04
  | .cmd => 0x08
  | .dataIn => 0x0C
  | .countLo => 0x10
  | .countHi => 0x14
  | .bufLen => 0x18
  | .digest j => 0x20 + BitVec.ofNat 8 (4 * j.val)

/-- The register at a word index of the window; none at a reserved offset (R62, R63, R65). -/
def regAt (index : BitVec 6) : Option Reg :=
  match index.toNat with
  | 0 => some .id
  | 1 => some .status
  | 2 => some .cmd
  | 3 => some .dataIn
  | 4 => some .countLo
  | 5 => some .countHi
  | 6 => some .bufLen
  | n => if h : 8 ≤ n ∧ n < 16 then some (.digest ⟨n - 8, by omega⟩) else none

/-- The platform's address of a word of the window (R61, R63, R72). -/
def busAddress (index : BitVec 6) : Nat := Config.base + 4 * index.toNat

/-- What a read of a named register returns (R27, R28, R34 to R37, R67). -/
def Device.readReg (d : Device) : Reg → Except Fault Word
  | .id => .ok idValue
  | .status => d.readStatus
  | .cmd => .ok 0
  | .dataIn => .ok d.dataIn
  | .countLo => .ok (d.count.extractLsb' 0 32)
  | .countHi => .ok (d.count.extractLsb' 32 32)
  | .bufLen => .ok ((BitVec.ofNat 7 d.cache.length).setWidth 32)
  | .digest j => .ok d.digest[j]

/-- BusRead: "A read of a reserved offset returns 0x00000000" (R65). It changes no state (R68). -/
def Device.busRead (d : Device) (index : BitVec 6) : Except Fault Word :=
  match regAt index with
  | some r => d.readReg r
  | none => .ok 0

/-- A write of v to CMD (R96), in R96's order: the BUSY test before the word is looked at, then the decoder's tests, then the
command. -/
def State.writeCmd (v : Word) (s : State) : Host.Outcome State Fault Refusal :=
  if s.dev.busy then .next (s.setDev (s.dev.raise .busy))
  else
    match decode v with
    | .error r => .next (s.setDev (s.dev.raise (rejectCode r)))
    | .ok i => exec i s

/-- A write to DATA_IN stores the whole word "at any time, including while BUSY = 1" (R34). -/
def State.writeDataIn (v : Word) (s : State) : Host.Outcome State Fault Refusal :=
  .next (s.setDev { s.dev with dataIn := v })

/-- BusWrite (R62): CMD and DATA_IN take a write; a write to a read-only register or a reserved offset "has no effect and
records no error" (R65, R66). -/
def State.busWrite (index : BitVec 6) (v : Word) (s : State) : Host.Outcome State Fault Refusal :=
  match regAt index with
  | some .cmd => s.writeCmd v
  | some .dataIn => s.writeDataIn v
  | some .id => .next s
  | some .status => .next s
  | some .countLo => .next s
  | some .countHi => .next s
  | some .bufLen => .next s
  | some (.digest _) => .next s
  | none => .next s

/-- The block's input pins in one clock cycle (R80). -/
structure Pins where
  rstN : Bool
  busReq : Bool
  busWe : Bool
  busAddr : BitVec 6
  busWdata : Word
  deriving DecidableEq, Repr

/-- `bus_rdata` in a cycle that presents a read: the register's value "before that cycle's edge updates anything" (R81), and 0 while
reset is held (R201). -/
def Device.busRdata (p : Pins) (d : Device) : Except Fault Word :=
  if p.rstN then d.busRead p.busAddr else .ok 0

/-- One rising clock edge: reset if `rst_n` is low, bus writes then having no effect (R201, R202); else the write that is presented,
if one is (R81). -/
def State.clockEdge (p : Pins) (s : State) : Host.Outcome State Fault Refusal :=
  if p.rstN then
    if p.busReq && p.busWe then s.busWrite p.busAddr p.busWdata else .next s
  else .next (s.setDev Device.reset)

end Sys2Proof.Machine
end

