-- ==== Sys2Proof/Machine/Schedule.lean ====
section
/-! DEFINITION. The Message Scheduler (spec/41_schedule.md). -/

namespace Sys2Proof.Machine

/-- σ0 (R121). The last term is a shift, not a rotation. -/
def smallSigma0 (x : Word) : Word := rotr x 7 ^^^ rotr x 18 ^^^ (x >>> 3)

/-- σ1 (R122). -/
def smallSigma1 (x : Word) : Word := rotr x 17 ^^^ rotr x 19 ^^^ (x >>> 10)

/-- Schedule words 0 to 15: `W[t] = be32(B[4t .. 4t+4))` (R123). -/
def blockWords : List Byte → List Word
  | b0 :: b1 :: b2 :: b3 :: rest => be32 b0 b1 b2 b3 :: blockWords rest
  | _ => []

/-- `W[t]` for t the number of words so far (R124). -/
def nextWord (w : List Word) : Word :=
  w.getD (w.length - 16) 0 + smallSigma0 (w.getD (w.length - 15) 0) + w.getD (w.length - 7) 0
    + smallSigma1 (w.getD (w.length - 2) 0)

/-- The loop "for t in 16..63" (R124), `n` rounds of it. -/
def extendSchedule : Nat → List Word → List Word
  | 0, w => w
  | n + 1, w => extendSchedule n (w ++ [nextWord w])

/-- `schedule(B)` for a block of 64 bytes (R124). -/
def schedule (block : List Byte) : List Word := extendSchedule 48 (blockWords block)

/-- One shift of the 16-word rolling window that hardware may keep instead of all of W (R125): the oldest word leaves and
the next enters. -/
def windowShift (win : List Word) : List Word :=
  win.tail ++ [win.getD 0 0 + smallSigma0 (win.getD 1 0) + win.getD 9 0 + smallSigma1 (win.getD 14 0)]

/-- The rolling window in round t (R125): its first word is the one round t consumes. -/
def rollingWindow (block : List Byte) : Nat → List Word
  | 0 => blockWords block
  | t + 1 => windowShift (rollingWindow block t)

end Sys2Proof.Machine
end

