-- ==== Sys2Proof/Machine/Compression.lean ====
section
/-! DEFINITION. The Compression Function (spec/42_compression.md), twice: `compress`, the pure function of R143, and the
registers a..h, W and RND of the block running its rounds (R42, R43, R45), which is what the engine's steps use. -/

namespace Sys2Proof.Machine

/-- Σ0 (R131). -/
def bigSigma0 (x : Word) : Word := rotr x 2 ^^^ rotr x 13 ^^^ rotr x 22

/-- Σ1 (R132). -/
def bigSigma1 (x : Word) : Word := rotr x 6 ^^^ rotr x 11 ^^^ rotr x 25

/-- Choose (R133). -/
def choose (e f g : Word) : Word := (e &&& f) ^^^ (~~~e &&& g)

/-- Majority (R134). -/
def majority (a b c : Word) : Word := (a &&& b) ^^^ (a &&& c) ^^^ (b &&& c)

/-- The load of a..h from a hash value (R136). -/
def loadWorking (S : HashValue) : Working := ⟨S[0], S[1], S[2], S[3], S[4], S[5], S[6], S[7]⟩

/-- T1 of a round with constant k and schedule word w (R137). -/
def temp1 (r : Working) (k w : Word) : Word := r.h + bigSigma1 r.e + choose r.e r.f r.g + k + w

/-- T2 of a round (R138). -/
def temp2 (r : Working) : Word := bigSigma0 r.a + majority r.a r.b r.c

/-- The register update of a round, one simultaneous assignment (R139, R141). -/
def round (k w : Word) (r : Working) : Working :=
  ⟨temp1 r k w + temp2 r, r.a, r.b, r.c, r.d + temp1 r k w, r.e, r.f, r.g⟩

/-- The final addition (R142). -/
def addBack (S : HashValue) (r : Working) : HashValue :=
  #v[S[0] + r.a, S[1] + r.b, S[2] + r.c, S[3] + r.d, S[4] + r.e, S[5] + r.f, S[6] + r.g, S[7] + r.h]

/-- `compress(S, B)` (R143): rounds 0 to 63 in increasing order (R140), round i with K[i] and W[i] (R139). -/
def compress (S : HashValue) (block : List Byte) : HashValue :=
  let w := schedule block
  addBack S ((List.range 64).foldl (fun r i => round (kWord i) (w.getD i 0) r) (loadWorking S))

/-- The start of a compression in the block's own registers: a..h loaded (R136), W formed (R135), RND at 0. -/
def Device.loadRounds (S : HashValue) (block : List Byte) (d : Device) : Device :=
  { d with work := loadWorking S, sched := schedule block, rnd := 0 }

/-- One round in the block's own registers, counted by RND (R139 to R141, R45). -/
def Device.runRound (d : Device) : Device :=
  { d with work := round (kWord d.rnd.toNat) (d.sched.getD d.rnd.toNat 0) d.work, rnd := d.rnd + 1 }

/-- `n` rounds one after another (R140). -/
def Device.runRounds : Nat → Device → Device
  | 0, d => d
  | n + 1, d => Device.runRounds n d.runRound

/-- A whole compression in the block's own registers, before the result is committed (R144: no hash register is written). -/
def Device.compressing (S : HashValue) (block : List Byte) (d : Device) : Device :=
  Device.runRounds 64 (d.loadRounds S block)

end Sys2Proof.Machine
end

