-- ==== Sys2Proof/Machine/Engine.lean ====
section
/-! DEFINITION. The engine (spec/43_accumulator.md section 3): its one step in each phase (R160 to R163), and how much work is due
(R170, R211). -/

namespace Sys2Proof.Machine

/-- The engine step in COMP (R161). -/
def Device.stepComp (d : Device) : Device :=
  let d1 := d.compressing d.hash (d.cache.take 64)
  { d1 with hash := addBack d.hash d1.work, cache := d.cache.drop 64, phase := .idle }

/-- The end of a finalization: DIGESTj <- HF[j], DVALID <- 1, PHASE <- IDLE (R162, R163). All of it in one step (R37, R69). -/
def Device.publish (d : Device) : Device := { d with digest := d.hf, dvalid := true, phase := .idle }

/-- The engine step in FIN1 (R162): a second final block if FB has 128 bytes, else the end. -/
def Device.stepFin1 (d : Device) : Device :=
  let d1 := d.compressing d.hf (d.fb.take 64)
  let d2 := { d1 with hf := addBack d.hf d1.work }
  if d.fb.length = 128 then { d2 with phase := .fin2 } else d2.publish

/-- The engine step in FIN2 (R163). -/
def Device.stepFin2 (d : Device) : Device :=
  let d1 := d.compressing d.hf ((d.fb.drop 64).take 64)
  Device.publish { d1 with hf := addBack d.hf d1.work }

/-- The engine's step: "In COMP, FIN1 and FIN2 the engine has exactly one enabled step. In IDLE it has none" (R160). -/
def Device.engineStep (d : Device) : Device :=
  match d.phase with
  | .idle => d
  | .comp => d.stepComp
  | .fin1 => d.stepFin1
  | .fin2 => d.stepFin2

/-- The compressions still due: "An accepted FEED starts at most one compression. An accepted DIGEST starts one or two" (R170). -/
def Device.compressionsDue (d : Device) : Nat :=
  match d.phase with
  | .idle => 0
  | .comp => 1
  | .fin1 => if d.fb.length = 128 then 2 else 1
  | .fin2 => 1

/-- How long BUSY stays 1, in clock cycles, from the start of the work due (R211; not normative, and nothing depends on it). -/
def Device.busyCycles (d : Device) : Nat := d.compressionsDue * Config.tBlock

/-- The block once the engine has taken every step due: two always suffice (R169). -/
def Device.settle (d : Device) : Device := d.engineStep.engineStep

end Sys2Proof.Machine
end

