-- ==== Sys2Proof/Machine/Agents.lean ====
section
/-! DEFINITION. The two agents and the outside world (R11, R74, R101, R201, R204): a host turn runs one line of the host's program, an
engine turn takes the engine's step, and the other turns are the reset pin, power-up, and the two attempts that a model must
refuse. -/

namespace Sys2Proof.Machine

/-- Assign a host variable, keeping the numbers strictly rising. -/
def assignVar (x : Nat) (v : Word) : List (Nat × Word) → List (Nat × Word)
  | [] => [(x, v)]
  | (y, u) :: rest =>
    if x < y then (x, v) :: (y, u) :: rest
    else if x = y then (x, v) :: rest
    else (y, u) :: assignVar x v rest

/-- The value of a host variable; one that no RD has assigned holds a free value (notes/assumptions/6.md). -/
def lookupVar (x : Nat) : List (Nat × Word) → Word
  | [] => Config.unassignedVar x
  | (y, u) :: rest => if x = y then u else lookupVar x rest

/-- The index of the line that defines a label (R101). DESIGN CHOICE (notes/assumptions/19.md): R101 does not say where a BNZ goes when
the program defines its label more than once, and the model takes the first definition. -/
def findLabel (l : Nat) : List HostLine → Option Nat
  | [] => none
  | line :: rest => if line = .label l then some 0 else (findLabel l rest).map (· + 1)

/-- The line the host takes next: none once HALT has run (R101: "the program ends") or past the last line. -/
def HostAgent.nextLine (h : HostAgent) : Option HostLine := if h.halted then none else h.program[h.pc]?

/-- Continue at the next line. -/
def HostAgent.advance (h : HostAgent) : HostAgent := { h with pc := h.pc + 1 }

/-- The pins of one host access (R80). -/
def State.accessPins (offset : BitVec 8) (we : Bool) (v : Word) (s : State) : Pins where
  rstN := s.rstN
  busReq := true
  busWe := we
  busAddr := offset.extractLsb' 2 6
  busWdata := v

/-- The two cases in which a model must refuse a host access: a misaligned offset (R63) and a block not reset yet (R201). -/
def State.accessRefused (offset : BitVec 8) (s : State) : Option Refusal :=
  if offset.extractLsb' 0 2 ≠ 0 then some .misalignedAccess
  else if s.resetSeen then none else some .beforeFirstReset

/-- A host write: one clock cycle with the write presented (R81). -/
def State.hostWrite (offset : BitVec 8) (v : Word) (s : State) : Host.Outcome State Fault Refusal :=
  match s.accessRefused offset with
  | some r => .refused r
  | none => s.clockEdge (s.accessPins offset true v)

/-- A host read: one clock cycle with the read presented; the data goes to a host variable (R81, R101). -/
def State.hostRead (offset : BitVec 8) (x : Nat) (s : State) : Host.Outcome State Fault Refusal :=
  match s.accessRefused offset with
  | some r => .refused r
  | none =>
    match s.dev.busRdata (s.accessPins offset false 0) with
    | .error f => .fault f
    | .ok v =>
      (s.setHost { s.host with vars := assignVar x v s.host.vars }).clockEdge (s.accessPins offset false 0)

/-- Run one host line (R101), in a state whose host already stands at the line after it. -/
def State.runLine (line : HostLine) (s : State) : Host.Outcome State Fault Refusal :=
  match line with
  | .label _ => .next s
  | .wr offset v => s.hostWrite offset v
  | .rd offset x => s.hostRead offset x
  | .bnz x mask target =>
    if lookupVar x s.host.vars &&& mask = 0 then .next s
    else
      match findLabel target s.host.program with
      | some k => .next (s.setHost { s.host with pc := k })
      | none => .refused .undefinedLabel
  | .halt => .next (s.setHost { s.host with halted := true })

/-- A host turn. A host with no line to take does nothing (an idle bus cycle). -/
def State.hostTurn (s : State) : Host.Outcome State Fault Refusal :=
  match s.host.nextLine with
  | none => .next s
  | some line => (s.setHost s.host.advance).runLine line

/-- An engine turn (R160 to R163). With reset held the block stays in reset (R201). -/
def State.engineTurn (s : State) : Host.Outcome State Fault Refusal :=
  if s.resetSeen then
    if s.rstN then .next (s.setDev s.dev.engineStep) else .next (s.setDev Device.reset)
  else .refused .beforeFirstReset

/-- One clock edge with `rst_n` at the level given and no access (R201): low resets the block, in whatever phase it is (R203), and
counts as the first reset; the first edge with it high again has no effect of its own. -/
def State.driveReset (level : Bool) (s : State) : State :=
  if level then { s with rstN := true }
  else { s with dev := Device.reset, rstN := false, resetSeen := true }

/-- Power-up (R201): the block holds anything at all, and no reset has been seen. -/
def State.powerUp (contents : Device) (s : State) : State :=
  { s with dev := contents, rstN := true, resetSeen := false }

/-- One turn. -/
def takeTurn (t : Turn) (s : State) : Host.Outcome State Fault Refusal :=
  match t with
  | .host => s.hostTurn
  | .engine => s.engineTurn
  | .rst level => .next (s.driveReset level)
  | .powerUp contents => .next (s.powerUp contents)
  | .subWord => .refused .subWordAccess
  | .secondHost => .refused .secondHost

/-- Whose turn it is when the schedule is used up: the engine's while it has work, so that every BUSY period ends (R204), else
the host's. -/
def State.defaultTurn (s : State) : Turn := if s.resetSeen && s.dev.busy then .engine else .host

/-- The next turn, and the state with that turn taken off the schedule. -/
def State.popTurn (s : State) : Turn × State :=
  match s.schedule with
  | [] => (s.defaultTurn, s)
  | t :: ts => (t, { s with schedule := ts })

/-- The host with a CMD write of v as the line it takes next, the rest of its program unchanged around it. -/
def HostAgent.withCmdWrite (v : Word) (h : HostAgent) : HostAgent :=
  { h with
    program := h.program.take h.pc ++ HostLine.wr 0x08 v :: h.program.drop h.pc
    pc := min h.pc h.program.length
    halted := false }

end Sys2Proof.Machine
end

