-- ==== Sys2Proof/Machine/Step.lean ====
section
/-! DEFINITION. The step of the machine: one turn of one agent (R11: "A host step and an engine step never happen in the same
atomic step"). -/

namespace Sys2Proof.Machine

/-- One step: take the next turn off the schedule and run it. -/
def step (s : State) : Host.Outcome State Fault Refusal := takeTurn s.popTurn.1 s.popTurn.2

/-- The state in which the very next step is a host write of this command word to CMD. The block fetches nothing (R22, R78): a
command arrives as a bus write (R33), so what is placed is the host's next program line and the host's turn to move
(notes/assumptions/5.md). -/
def State.withFetchWord (s : State) (nbits w : Nat) : State :=
  { s with
    host := s.host.withCmdWrite (BitVec.ofNat 32 (w % 2 ^ nbits))
    schedule := .host :: s.schedule }

end Sys2Proof.Machine
end

