-- ==== Sys2Proof/Machine/HostPrograms.lean ====
section
/-! DEFINITION. The host's notation above single lines: the command mnemonics (R102), the pseudo-instructions (R103), and the
source's operations as host sequences (R159, R167, R168). Each takes the numbers of the fresh labels and of the variables it
uses. -/

namespace Sys2Proof.Machine

/-- `WR <reg>, <imm32>` by register name (R101). -/
def writeLine (r : Reg) (v : Word) : HostLine := .wr r.offset v

/-- `RD <reg> -> <var>` by register name (R101). -/
def readLine (r : Reg) (x : Nat) : HostLine := .rd r.offset x

/-- A command mnemonic: "one `WR CMD, <word>` with the word of rule R95" (R102). -/
def commandLine (i : Instr) : HostLine := writeLine .cmd (encode i)

/-- POLL, with a fresh label and a variable for STATUS (R103). -/
def poll (l x : Nat) : List HostLine := [.label l, readLine .status x, .bnz x 0x1 l]

/-- `FEEDW <len + 1>, <imm32>` (R103). -/
def feedw (len : BitVec 2) (v : Word) (l x : Nat) : List HostLine :=
  [writeLine .dataIn v, commandLine (.feed len)] ++ poll l x

/-- FINAL (R103). -/
def finalLines (l x : Nat) : List HostLine := commandLine .digest :: poll l x

/-- `READD -> d0..d7`, into eight variables from x on (R103). -/
def readd (x : Nat) : List HostLine := (List.finRange 8).map fun j => readLine (.digest j) (x + j.val)

/-- The chunks of the feed procedure (R168): four bytes at a time, the last one shorter, each as LEN and a DATA_IN word. -/
def feedChunks : List Byte → List (BitVec 2 × Word)
  | [] => []
  | [b0] => [(0, be32 b0 0 0 0)]
  | [b0, b1] => [(1, be32 b0 b1 0 0)]
  | [b0, b1, b2] => [(2, be32 b0 b1 b2 0)]
  | b0 :: b1 :: b2 :: b3 :: rest => (3, be32 b0 b1 b2 b3) :: feedChunks rest

/-- FEEDW for each chunk, each POLL with a label of its own from l on. -/
def feedwAll (x : Nat) : Nat → List (BitVec 2 × Word) → List HostLine
  | _, [] => []
  | l, c :: cs => feedw c.1 c.2 l x ++ feedwAll x (l + 1) cs

/-- The source's `feed(bytes)` (R168): nothing for no bytes, else a FEEDW for each chunk. -/
def feedProcedure (m : List Byte) (l x : Nat) : List HostLine := feedwAll x l (feedChunks m)

/-- The source's `construct(initial bytes)`: INIT and then the feed procedure (R159). -/
def constructProcedure (m : List Byte) (l x : Nat) : List HostLine := commandLine .init :: feedProcedure m l x

/-- The source's `digest()`: FINAL and then READD into the variables from d on (R167). -/
def digestProcedure (l x d : Nat) : List HostLine := finalLines l x ++ readd d

end Sys2Proof.Machine
end

