-- ==== Sys2Proof/Machine/Message.lean ====
section
/-! DEFINITION. Hashing a whole message (R165), as functions of the message alone, and the digest's byte and text forms (R37, R166,
R167). -/

namespace Sys2Proof.Machine

/-- The fold of `compress` over the first q blocks of m (R165). -/
def hashBlocks : Nat → HashValue → List Byte → HashValue
  | 0, S, _ => S
  | q + 1, S, m => hashBlocks q (compress S (m.take 64)) (m.drop 64)

/-- The digest of a stream whose first blocks gave S, whose uncompressed tail is `cache` and whose byte count is `count`: the fold
over the one or two final blocks (R157, R162, R163). -/
def finalDigest (S : HashValue) (cache : List Byte) (count : ByteCount) : HashValue :=
  hashBlocks ((cache ++ pad count).length / 64) S (cache ++ pad count)

/-- SHA256(m): "the fold of `compress` from IV over the blocks of `m ++ pad(|m|)`", with `pad(|m| mod 2^64)` for a message of
2^64 bytes or more (R165). -/
def sha256 (m : List Byte) : HashValue :=
  let padded := m ++ pad (BitVec.ofNat 64 m.length)
  hashBlocks (padded.length / 64) iv padded

/-- The 32 digest bytes: `be32enc(DIGEST0) ++ ... ++ be32enc(DIGEST7)` (R37, R167). -/
def digestBytes (D : HashValue) : List Byte := D.toList.flatMap be32enc

/-- `HEX = "0123456789abcdef"` (R166). -/
def hexAlphabet : List Char :=
  ['0', '1', '2', '3', '4', '5', '6', '7', '8', '9', 'a', 'b', 'c', 'd', 'e', 'f']

/-- The two characters of a byte: `HEX[b >> 4]` then `HEX[b & 0xF]` (R166). -/
def hexByte (b : Byte) : List Char :=
  [hexAlphabet.getD (b >>> 4).toNat '0', hexAlphabet.getD (b &&& 0xF).toNat '0']

/-- hexDigest, a function the host computes from DIGEST0..7 (R7, R166). -/
def hexDigest (D : HashValue) : List Char := (digestBytes D).flatMap hexByte

end Sys2Proof.Machine
end

