-- ==== Sys2Proof/Machine/System.lean ====
section
/-! DEFINITION. A system of independent instances (R10, R197): each has its own state and its own host, and they share nothing. -/

namespace Sys2Proof.Machine

/-- A system: the states of its instances. -/
abbrev System := List State

/-- A system has `N_INST` instances (R10, R197). -/
def System.complete (sys : System) : Prop := sys.length = Config.nInst

/-- A step of instance k. -/
def System.stepInstance (sys : System) (k : Nat) : Host.Outcome System Fault Refusal :=
  match sys[k]? with
  | none => .refused .noSuchInstance
  | some s =>
    match step s with
    | .next s' => .next (sys.set k s')
    | .fault f => .fault f
    | .refused r => .refused r

end Sys2Proof.Machine
end

