-- ==== Sys2Proof/Safety.lean ====
section
/-! DEFINITION. What the claims are stated in: the block's invariants, when a digest may be read, when a run is over, and what it is for
the block to hold a message. -/

namespace Sys2Proof.Machine

/-- At rest: STATUS.BUSY = 0 (R19). -/
def Device.atRest (d : Device) : Prop := d.phase = .idle

/-- What CACHE and COUNT have to do with each other in each phase (R25, R26, R209). -/
def Device.cacheInv (d : Device) : Prop :=
  match d.phase with
  | .comp => 64 ≤ d.cache.length ∧ d.cache.length ≤ 67 ∧ d.cache.length - 64 = d.count.toNat % 64
  | .idle | .fin1 | .fin2 => d.cache.length = d.count.toNat % 64

/-- What HF and FB hold while a DIGEST is in progress (R44, R157, R162). -/
def Device.finalInv (d : Device) : Prop :=
  match d.phase with
  | .idle | .comp => True
  | .fin1 => d.hf = d.hash ∧ d.fb = d.cache ++ pad d.count
  | .fin2 => d.hf = compress d.hash (d.fb.take 64) ∧ d.fb = d.cache ++ pad d.count ∧ d.fb.length = 128

/-- What DVALID = 1 says: the block is at rest, and DIGEST0..7 hold the digest of the state as it is (R30). -/
def Device.digestInv (d : Device) : Prop :=
  d.dvalid = true → d.phase = .idle ∧ d.digest = finalDigest d.hash d.cache d.count

/-- The storage bounds: ERR holds a code that is produced (R182), FB has 64 or 128 bytes (R44), W has 64 words (R43). -/
def Device.storageInv (d : Device) : Prop :=
  d.err.toNat ≤ 4 ∧ (d.fb.length = 64 ∨ d.fb.length = 128) ∧ d.sched.length = 64

/-- The block's invariant. -/
structure Device.Inv (d : Device) : Prop where
  cache : d.cacheInv
  final : d.finalInv
  digest : d.digestInv
  storage : d.storageInv

/-- The values that reset gives and the spec states (R48, R202). HF, FB, a..h, W and RND are left out: their reset values are
unspecified. -/
structure Device.AtResetValues (d : Device) : Prop where
  hash : d.hash = iv
  count : d.count = 0
  cache : d.cache = []
  dataIn : d.dataIn = 0
  digest : d.digest = zeroHash
  dvalid : d.dvalid = false
  phase : d.phase = .idle
  err : d.err = 0

/-- Host variables are listed in strictly rising order of their numbers. -/
def varsSorted (vars : List (Nat × Word)) : Prop := vars.Pairwise (fun p q => p.1 < q.1)

/-- The machine's invariant. Before the first reset nothing is said of the block (R201). -/
structure State.Inv (s : State) : Prop where
  device : s.resetSeen = true → s.dev.Inv
  held : s.rstN = false → s.dev.AtResetValues ∧ s.resetSeen = true
  vars : varsSorted s.host.vars

/-- When DIGEST0..7 may be read as the current message's digest: STATUS shows BUSY = 0 and DVALID = 1 (R207). -/
def Device.digestReadable (d : Device) : Prop := d.busy = false ∧ d.dvalid = true

/-- A run is over at HALT with BUSY = 0; "A run that halts with BUSY = 1 is not over" (R212). -/
def State.runOver (s : State) : Prop := s.host.halted = true ∧ s.dev.busy = false

/-- The block at rest holds the message m (R165): H is the fold over m's whole blocks, CACHE is the rest, COUNT the length. -/
structure Device.Holds (d : Device) (m : List Byte) : Prop where
  rest : d.phase = .idle
  hash : d.hash = hashBlocks (m.length / 64) iv m
  cache : d.cache = m.drop (64 * (m.length / 64))
  count : d.count = BitVec.ofNat 64 m.length

/-- How many of m's whole blocks are folded into H: all of them, but for the one that COMP is compressing (R155, R161). -/
def Device.blocksDone (d : Device) (m : List Byte) : Nat :=
  match d.phase with
  | .comp => m.length / 64 - 1
  | .idle | .fin1 | .fin2 => m.length / 64

/-- The block, in whatever phase, carries the message m: "the concatenation, in acceptance order, of the bytes of every FEED accepted since
the last INIT or reset" (R165). -/
structure Device.Carries (d : Device) (m : List Byte) : Prop where
  hash : d.hash = hashBlocks (d.blocksDone m) iv m
  cache : d.cache = m.drop (64 * d.blocksDone m)
  count : d.count = BitVec.ofNat 64 m.length

/-- What an accepted command makes of the message (R154, R155, R165): INIT begins a new one, a FEED appends, the others leave it. -/
def messageOf (i : Instr) (dataIn : Word) (m : List Byte) : List Byte :=
  match i with
  | .init => []
  | .feed len => m ++ feedBytes len dataIn
  | .nop | .digest | .clrerr => m

/-- What a step from s to t makes of the message m: reset begins a new one, a command accepted at CMD does what `messageOf` says, and
nothing else touches it. -/
def State.messageAfter (s t : State) (m : List Byte) : List Byte :=
  if t.rstN = false then []
  else
    match s.popTurn.1, s.host.nextLine, s.dev.phase with
    | .host, some (.wr 0x08 v), .idle =>
      match decode v with
      | .ok i => messageOf i s.dev.dataIn m
      | .error _ => m
    | _, _, _ => m

/-- The bytes of a list of FEEDs, in order. -/
def chunkBytes (cs : List (BitVec 2 × Word)) : List Byte := cs.flatMap fun c => feedBytes c.1 c.2

/-- A host that follows R206 over a list of feeds: for each, DATA_IN is written, the FEED is presented, and the engine finishes before
the next. -/
def runFeeds : List (BitVec 2 × Word) → State → Host.Outcome State Fault Refusal
  | [], s => .next s
  | c :: cs, s =>
    match exec (.feed c.1) (s.setDev { s.dev with dataIn := c.2 }) with
    | .next t => runFeeds cs (t.setDev t.dev.settle)
    | .fault f => .fault f
    | .refused r => .refused r

end Sys2Proof.Machine
end

