-- ==== Sys2Proof/WellFormed.lean ====
section
/-! DEFINITION. What is well formed. Every term of `Instr` is: LEN is a 2-bit field and "the number of bytes a FEED takes"
is 1 to 4 for its four values (R93), so there is no ill-formed command to check for. The checks are those on host
programs (R101, R103): aligned offsets (R63), targets that exist, and labels that are not defined twice. -/

namespace Sys2Proof

/-- Every command is well formed (R93: LEN's four values are the four feeds; R94: "No other command has an operand"). -/
def WellFormed : Instr → Bool
  | .nop => true
  | .init => true
  | .feed _ => true
  | .digest => true
  | .clrerr => true

namespace Machine

/-- The labels a host program defines, in order. -/
def labelsOf : List HostLine → List Nat
  | [] => []
  | .label l :: rest => l :: labelsOf rest
  | _ :: rest => labelsOf rest

/-- A host line is well formed beside the labels of its program: an access names a word of the window (R63: the offset is
`4 * addr[7:2]`), and a BNZ names a label that exists (R101). -/
def HostLine.wellFormed (labels : List Nat) : HostLine → Bool
  | .label _ => true
  | .wr offset _ => offset.extractLsb' 0 2 == 0
  | .rd offset _ => offset.extractLsb' 0 2 == 0
  | .bnz _ _ target => labels.contains target
  | .halt => true

/-- No label is defined twice (R103: a POLL uses "a fresh label"). A program that breaks this still runs: notes/assumptions/19.md says
how. -/
def labelsDistinct : List Nat → Bool
  | [] => true
  | l :: rest => !rest.contains l && labelsDistinct rest

/-- A host program is well formed when its labels are distinct and each of its lines is well formed. -/
def hostProgramWellFormed (p : List HostLine) : Bool :=
  labelsDistinct (labelsOf p) && p.all (HostLine.wellFormed (labelsOf p))

end Machine

end Sys2Proof
end

