-- ==== Sys2Proof/Certificates/Slice0/Obligations.lean ====
section
/-! DEFINITION. The statements for the provers. A statement that speaks of an outcome names the next state or the stop; a statement
about a next state says what of the block, the host and the window stays as it was. -/

open Sys2Proof Sys2Proof.Machine

/-! ### Encoding -/

/-- R95's words, the four FEED words among them, and words of each refused kind (95_test_vectors.md 2.7). -/
def Obligations.SampleCommandWordsDecode : Prop :=
  decode 0x00000000 = .ok .nop ∧ decode 0x00000001 = .ok .init ∧ decode 0x00000002 = .ok (.feed 0) ∧
  decode 0x00000102 = .ok (.feed 1) ∧ decode 0x00000202 = .ok (.feed 2) ∧ decode 0x00000302 = .ok (.feed 3) ∧
  decode 0x00000003 = .ok .digest ∧ decode 0x00000004 = .ok .clrerr ∧
  decode 0x00000005 = .error .illegalOp ∧ decode 0xFFFFFF05 = .error .illegalOp ∧
  decode 0x00000400 = .error .reservedBits ∧ decode 0x00000101 = .error .reservedBits ∧
  decode 0x00000103 = .error .reservedBits ∧ decode 0x80000002 = .error .reservedBits

/-- Decode and encode agree in both directions (R95, R96): no bit of a word is dropped, and no two words are one command. -/
def Obligations.DecodeEncodeAgree : Prop :=
  (∀ i : Instr, WellFormed i = true →
    decode (encode i) = .ok i ∧ decodeTableWord 32 (encode i).toNat = some i) ∧
  (∀ (v : Word) (i : Instr), decode v = .ok i → encode i = v)

/-- R95: a word selects a command exactly when `(v & mask) = match` for its row, the LEN of a FEED is the word's own, every word that no
row matches is rejected, and "The rows do not overlap". -/
def Obligations.DecodeFollowsOpcodeMap : Prop :=
  ∀ v : Word,
    (∀ i : Instr, decode v = .ok i → (v &&& (opcodeRow i).mask) = (opcodeRow i).pattern) ∧
    ((v &&& 0xFFFFFFFF) = 0x00000000 → decode v = .ok .nop) ∧
    ((v &&& 0xFFFFFFFF) = 0x00000001 → decode v = .ok .init) ∧
    ((v &&& 0xFFFFFCFF) = 0x00000002 → decode v = .ok (.feed (v.extractLsb' 8 2))) ∧
    ((v &&& 0xFFFFFFFF) = 0x00000003 → decode v = .ok .digest) ∧
    ((v &&& 0xFFFFFFFF) = 0x00000004 → decode v = .ok .clrerr) ∧
    ((∀ row ∈ opcodeTable, row.selects v = false) → ∃ r : Reject, decode v = .error r) ∧
    (opcodeTable.filter fun row => row.selects v).length ≤ 1

/-- R97 and R98: at rest an illegal or a reserved word is refused with its error, "It is not executed as the command its opcode names", and
there is no trap: the block goes on with nothing but ERR changed. -/
def Obligations.IllegalAndReservedWordsRefused : Prop :=
  ∀ (v : Word) (s : State), s.dev.phase = .idle →
    (4 < (v.extractLsb' 0 8).toNat →
      s.writeCmd v = .next (s.setDev { s.dev with err := if s.dev.err = 0 then 2 else s.dev.err })) ∧
    ((v.extractLsb' 0 8).toNat ≤ 4 →
      (v.extractLsb' 10 22 ≠ 0 ∨ ((v.extractLsb' 0 8).toNat ≠ 2 ∧ v.extractLsb' 8 2 ≠ 0)) →
      s.writeCmd v = .next (s.setDev { s.dev with err := if s.dev.err = 0 then 3 else s.dev.err }))

/-- R96: the decoding of a CMD write. While BUSY = 1 the command is refused; at rest the tests run in the order given; and a word that
passes them is accepted as the command of its row of R95. -/
def Obligations.CmdWriteProcedure : Prop :=
  ∀ (v : Word) (s : State),
    (s.dev.busy = true →
      s.writeCmd v = .next (s.setDev { s.dev with err := if s.dev.err = 0 then 1 else s.dev.err })) ∧
    (s.dev.busy = false → 4 < (v.extractLsb' 0 8).toNat →
      s.writeCmd v = .next (s.setDev { s.dev with err := if s.dev.err = 0 then 2 else s.dev.err })) ∧
    (s.dev.busy = false → (v.extractLsb' 0 8).toNat ≤ 4 →
      (v.extractLsb' 10 22 ≠ 0 ∨ ((v.extractLsb' 0 8).toNat ≠ 2 ∧ v.extractLsb' 8 2 ≠ 0)) →
      s.writeCmd v = .next (s.setDev { s.dev with err := if s.dev.err = 0 then 3 else s.dev.err })) ∧
    (s.dev.busy = false → (v.extractLsb' 0 8).toNat ≤ 4 → v.extractLsb' 10 22 = 0 →
      ((v.extractLsb' 0 8).toNat = 2 ∨ v.extractLsb' 8 2 = 0) →
      ∃ i : Instr, (v &&& (opcodeRow i).mask) = (opcodeRow i).pattern ∧ encode i = v ∧ s.writeCmd v = exec i s)

/-! ### Commands -/

/-- R153: an accepted NOP has no effect, starts no engine step, writes no flag; one written while BUSY = 1 is refused with BUSY. -/
def Obligations.NopHasNoEffect : Prop :=
  ∀ s : State,
    (s.dev.phase = .idle → exec .nop s = .next s) ∧
    (s.dev.phase ≠ .idle →
      exec .nop s = .next (s.setDev { s.dev with err := if s.dev.err = 0 then 1 else s.dev.err }))

/-- R154: INIT's whole effect at rest; INIT at reset values changes nothing; and after any history INIT and then a digest gives the empty
message's digest. -/
def Obligations.InitReconstructs : Prop :=
  (∀ s : State, s.dev.phase = .idle →
    exec .init s = .next (s.setDev { s.dev with
      hash := iv, count := 0, cache := [], digest := zeroHash, dvalid := false, err := 0 })) ∧
  exec .init State.reset = .next State.reset ∧
  (∀ s : State, s.dev.phase = .idle →
    ∃ t u : State, exec .init s = .next t ∧ exec .digest t = .next u ∧ u.dev.settle.phase = .idle ∧
      u.dev.settle.digest = #v[0xE3B0C442, 0x98FC1C14, 0x9AFBF4C8, 0x996FB924, 0x27AE41E4, 0x649B934C, 0xA495991B, 0x7852B855])

/-- R155: FEED's whole effect at rest, and what the rule derives from it: at most 67 bytes are held, at most one compression is due, and at
most 3 bytes are left after it. -/
def Obligations.FeedAppendsBytes : Prop :=
  ∀ (len : BitVec 2) (s : State), s.dev.phase = .idle →
    let x := s.dev.dataIn
    let n := len.toNat + 1
    let bs : List Byte := List.take n [x.extractLsb' 24 8, x.extractLsb' 16 8, x.extractLsb' 8 8, x.extractLsb' 0 8]
    let t := s.setDev { s.dev with
      cache := s.dev.cache ++ bs
      count := BitVec.ofNat 64 (s.dev.count.toNat + n)
      dvalid := false
      err := if 2 ^ 61 ≤ s.dev.count.toNat + n ∧ s.dev.err = 0 then 4 else s.dev.err
      phase := if 64 ≤ s.dev.cache.length + n then .comp else .idle }
    exec (.feed len) s = .next t ∧
    (s.dev.cache.length ≤ 63 →
      t.dev.cache.length ≤ 67 ∧ t.dev.compressionsDue ≤ 1 ∧
      (t.dev.phase = .comp → t.dev.engineStep.phase = .idle ∧ t.dev.engineStep.cache.length ≤ 3))

/-- R156's corner cases of FEED and its example: when a block fills, which of the bytes fed stay after it, where COUNT wraps, and that the
unused lanes are ignored. -/
def Obligations.FeedCornerCases : Prop :=
  ∀ s : State, s.dev.phase = .idle →
    (s.dev.cache.length = 60 → ∃ t : State, exec (.feed 3) s = .next t ∧
      t.dev.cache.length = 64 ∧ t.dev.phase = .comp ∧ t.dev.settle.cache = []) ∧
    (s.dev.cache.length = 63 → ∃ t : State, exec (.feed 3) s = .next t ∧
      t.dev.cache.length = 67 ∧ t.dev.phase = .comp ∧
      t.dev.settle.hash = compress s.dev.hash (s.dev.cache ++ [s.dev.dataIn.extractLsb' 24 8]) ∧
      t.dev.settle.cache =
        [s.dev.dataIn.extractLsb' 16 8, s.dev.dataIn.extractLsb' 8 8, s.dev.dataIn.extractLsb' 0 8]) ∧
    (s.dev.cache.length = 59 → ∃ t : State, exec (.feed 3) s = .next t ∧
      t.dev.cache.length = 63 ∧ t.dev.busy = false) ∧
    (s.dev.count.toNat = 2 ^ 64 - 1 → ∃ t : State, exec (.feed 0) s = .next t ∧
      t.dev.count = 0 ∧ (s.dev.err = 0 → t.dev.err = 4)) ∧
    (∃ t : State, exec (.feed 0) (s.setDev { s.dev with dataIn := 0x61FFFFFF }) = .next t ∧
      t.dev.cache = s.dev.cache ++ [0x61]) ∧
    (∃ t u : State, exec .init s = .next t ∧
      exec (.feed 2) (t.setDev { t.dev with dataIn := 0x61626300 }) = .next u ∧
      u.dev.cache = [0x61, 0x62, 0x63] ∧ u.dev.count = 3 ∧ u.dev.busRead 6 = .ok 3 ∧ u.dev.busy = false)

/-- R157: DIGEST's acceptance at rest, which writes no H, COUNT or CACHE; one final block for at most 55 cached bytes and two from 56
on; its completion, which sets DVALID and raises nothing; and its example, the digest of "abc". -/
def Obligations.DigestSnapshots : Prop :=
  ∀ s : State, s.dev.phase = .idle →
    let t := s.setDev { s.dev with
      dvalid := false, hf := s.dev.hash, fb := s.dev.cache ++ pad s.dev.count, phase := .fin1 }
    exec .digest s = .next t ∧
    (s.dev.cache.length = s.dev.count.toNat % 64 →
      (s.dev.cache.length ≤ 55 → t.dev.engineStep.phase = .idle ∧ t.dev.engineStep.dvalid = true ∧
        t.dev.engineStep.err = s.dev.err) ∧
      (56 ≤ s.dev.cache.length → t.dev.engineStep.phase = .fin2 ∧ t.dev.engineStep.dvalid = false ∧
        t.dev.engineStep.engineStep.phase = .idle ∧ t.dev.engineStep.engineStep.dvalid = true ∧
        t.dev.engineStep.engineStep.err = s.dev.err)) ∧
    (∃ u v w : State, exec .init s = .next u ∧
      exec (.feed 2) (u.setDev { u.dev with dataIn := 0x61626300 }) = .next v ∧ exec .digest v = .next w ∧
      w.dev.settle.dvalid = true ∧ w.dev.settle.digest =
        #v[0xBA7816BF, 0x8F01CFEA, 0x414140DE, 0x5DAE2223, 0xB00361A3, 0x96177A9C, 0xB410FF61, 0xF20015AD])

/-- R158: CLRERR clears ERR at rest and changes nothing else; while BUSY = 1 it is refused like any command, and ERR keeps its value or
becomes BUSY if it was 0. -/
def Obligations.ClrerrClearsErr : Prop :=
  ∀ s : State,
    (s.dev.phase = .idle → exec .clrerr s = .next (s.setDev { s.dev with err := 0 })) ∧
    (s.dev.phase ≠ .idle →
      exec .clrerr s = .next (s.setDev { s.dev with err := if s.dev.err = 0 then 1 else s.dev.err }))

/-- R184: a CMD write while BUSY = 1 raises BUSY "whatever the word", and the work in progress is not disturbed. -/
def Obligations.BusyRefusesEveryCommand : Prop :=
  ∀ s : State, s.dev.phase ≠ .idle →
    (∀ v : Word,
      s.writeCmd v = .next (s.setDev { s.dev with err := if s.dev.err = 0 then 1 else s.dev.err })) ∧
    (∀ i : Instr,
      exec i s = .next (s.setDev { s.dev with err := if s.dev.err = 0 then 1 else s.dev.err }))

/-- R183: "The first error since the last clear is kept", and raising changes nothing but ERR. -/
def Obligations.FirstErrorIsKept : Prop :=
  ∀ (c : ErrCode) (d : Device),
    (d.err = 0 → d.raise c = { d with err := c.code }) ∧ (d.err ≠ 0 → d.raise c = d) ∧
    ErrCode.busy.code = 1 ∧ ErrCode.illegalOp.code = 2 ∧ ErrCode.reservedBits.code = 3 ∧ ErrCode.length.code = 4

/-- The frame of the five commands, for every state (R152): what each leaves alone in the block, that the host, the pin and the schedule
are never touched, and which words of the window read as before. -/
def Obligations.CommandsFrame : Prop :=
  ∀ (i : Instr) (s t : State), exec i s = .next t →
    (t.host = s.host ∧ t.schedule = s.schedule ∧ t.rstN = s.rstN ∧ t.resetSeen = s.resetSeen) ∧
    (t.dev.dataIn = s.dev.dataIn ∧ t.dev.work = s.dev.work ∧ t.dev.sched = s.dev.sched ∧ t.dev.rnd = s.dev.rnd) ∧
    (i = .nop ∨ i = .clrerr ∨ s.dev.phase ≠ .idle →
      t.dev.hash = s.dev.hash ∧ t.dev.count = s.dev.count ∧ t.dev.cache = s.dev.cache ∧
      t.dev.digest = s.dev.digest ∧ t.dev.dvalid = s.dev.dvalid ∧ t.dev.phase = s.dev.phase ∧
      t.dev.hf = s.dev.hf ∧ t.dev.fb = s.dev.fb) ∧
    (i = .init → t.dev.phase = s.dev.phase ∧ t.dev.hf = s.dev.hf ∧ t.dev.fb = s.dev.fb) ∧
    ((∃ len, i = .feed len) → t.dev.hash = s.dev.hash ∧ t.dev.digest = s.dev.digest ∧ t.dev.hf = s.dev.hf ∧
      t.dev.fb = s.dev.fb) ∧
    (i = .digest → t.dev.hash = s.dev.hash ∧ t.dev.count = s.dev.count ∧ t.dev.cache = s.dev.cache ∧
      t.dev.digest = s.dev.digest) ∧
    (i = .digest → s.dev.phase = .idle → t.dev.err = s.dev.err) ∧
    (i = .nop → s.dev.phase = .idle → ∀ k : BitVec 6, t.dev.busRead k = s.dev.busRead k) ∧
    (i = .nop ∨ i = .clrerr ∨ i = .digest ∨ s.dev.phase ≠ .idle →
      ∀ k : BitVec 6, k ≠ 1 → t.dev.busRead k = s.dev.busRead k) ∧
    ((∃ len, i = .feed len) →
      ∀ k : BitVec 6, k ≠ 1 ∧ k ≠ 4 ∧ k ≠ 5 ∧ k ≠ 6 → t.dev.busRead k = s.dev.busRead k) ∧
    (i = .init → ∀ k : BitVec 6,
      (k.toNat = 0 ∨ k.toNat = 2 ∨ k.toNat = 3 ∨ k.toNat = 7 ∨ 16 ≤ k.toNat) → t.dev.busRead k = s.dev.busRead k)

/-! ### Engine -/

/-- R161: the engine step in COMP writes all of H, takes 64 bytes off CACHE and goes to IDLE; COUNT, DVALID, DIGEST and ERR stay. -/
def Obligations.EngineCompletesFeed : Prop :=
  ∀ s : State, s.resetSeen = true → s.rstN = true → s.dev.phase = .comp →
    ∃ t : State, s.engineTurn = .next t ∧
      t.dev.hash = compress s.dev.hash (s.dev.cache.take 64) ∧ t.dev.cache = s.dev.cache.drop 64 ∧
      t.dev.phase = .idle ∧ t.dev.count = s.dev.count ∧ t.dev.dvalid = s.dev.dvalid ∧
      t.dev.digest = s.dev.digest ∧ t.dev.err = s.dev.err ∧ t.dev.dataIn = s.dev.dataIn ∧
      t.dev.hf = s.dev.hf ∧ t.dev.fb = s.dev.fb ∧ t.host = s.host ∧ t.schedule = s.schedule ∧
      t.rstN = s.rstN ∧ t.resetSeen = s.resetSeen

/-- R162: the engine step in FIN1 compresses the first final block into HF, and either goes to FIN2 (FB of 128 bytes) or publishes the
digest in the same step; H, COUNT, CACHE and ERR stay. -/
def Obligations.EngineStepsFin1 : Prop :=
  ∀ s : State, s.resetSeen = true → s.rstN = true → s.dev.phase = .fin1 →
    ∃ t : State, s.engineTurn = .next t ∧
      t.dev.hf = compress s.dev.hf (s.dev.fb.take 64) ∧
      (s.dev.fb.length = 128 →
        t.dev.phase = .fin2 ∧ t.dev.digest = s.dev.digest ∧ t.dev.dvalid = s.dev.dvalid) ∧
      (s.dev.fb.length ≠ 128 →
        t.dev.phase = .idle ∧ t.dev.digest = compress s.dev.hf (s.dev.fb.take 64) ∧ t.dev.dvalid = true) ∧
      t.dev.hash = s.dev.hash ∧ t.dev.count = s.dev.count ∧ t.dev.cache = s.dev.cache ∧
      t.dev.err = s.dev.err ∧ t.dev.dataIn = s.dev.dataIn ∧ t.dev.fb = s.dev.fb ∧
      t.host = s.host ∧ t.schedule = s.schedule ∧ t.rstN = s.rstN ∧ t.resetSeen = s.resetSeen

/-- R163: the engine step in FIN2 compresses the second final block and publishes the digest; H, COUNT, CACHE and ERR stay. -/
def Obligations.EngineStepsFin2 : Prop :=
  ∀ s : State, s.resetSeen = true → s.rstN = true → s.dev.phase = .fin2 →
    ∃ t : State, s.engineTurn = .next t ∧
      t.dev.hf = compress s.dev.hf ((s.dev.fb.drop 64).take 64) ∧
      t.dev.digest = compress s.dev.hf ((s.dev.fb.drop 64).take 64) ∧ t.dev.dvalid = true ∧
      t.dev.phase = .idle ∧ t.dev.hash = s.dev.hash ∧ t.dev.count = s.dev.count ∧
      t.dev.cache = s.dev.cache ∧ t.dev.err = s.dev.err ∧ t.dev.dataIn = s.dev.dataIn ∧
      t.dev.fb = s.dev.fb ∧ t.host = s.host ∧ t.schedule = s.schedule ∧ t.rstN = s.rstN ∧
      t.resetSeen = s.resetSeen

/-- R160: PHASE moves only as the table says, by the agent the table says. Power-up, after which nothing is specified, is left
out. -/
def Obligations.PhaseMovesOnlyAsTabled : Prop :=
  ∀ s t : State, step s = .next t → (∀ d : Device, s.popTurn.1 ≠ .powerUp d) →
    t.dev.phase = s.dev.phase ∨
    (s.popTurn.1 = .host ∧ s.dev.phase = .idle ∧ t.dev.phase = .comp ∧ 64 ≤ t.dev.cache.length) ∨
    (s.popTurn.1 = .host ∧ s.dev.phase = .idle ∧ t.dev.phase = .fin1) ∨
    (s.popTurn.1 = .engine ∧ s.dev.phase = .comp ∧ t.dev.phase = .idle) ∨
    (s.popTurn.1 = .engine ∧ s.dev.phase = .fin1 ∧ s.dev.fb.length ≠ 128 ∧ t.dev.phase = .idle) ∨
    (s.popTurn.1 = .engine ∧ s.dev.phase = .fin1 ∧ s.dev.fb.length = 128 ∧ t.dev.phase = .fin2) ∨
    (s.popTurn.1 = .engine ∧ s.dev.phase = .fin2 ∧ t.dev.phase = .idle) ∨
    (t.rstN = false ∧ t.dev.phase = .idle)

/-- R204, R170: every BUSY period ends. Left to itself the machine is at rest after at most two steps, and each engine step takes one
compression off the work due, of which there are at most two. That the engine moves when the schedule is empty is the model's own choice
(`State.defaultTurn`, DESIGN CHOICE, notes/assumptions/1.md), and the first clause rests on it. -/
def Obligations.EveryBusyPeriodEnds : Prop :=
  (∀ s : State, s.resetSeen = true → s.rstN = true → s.schedule = [] → s.dev.busy = true →
    ∃ (n : Nat) (t : State), 1 ≤ n ∧ n ≤ 2 ∧ Sys2Proof.core.run n s = .next t ∧ t.dev.busy = false ∧ t.host = s.host) ∧
  (∀ d : Device, d.engineStep.compressionsDue = d.compressionsDue - 1 ∧ d.compressionsDue ≤ 2 ∧
    (d.compressionsDue = 0 ↔ d.busy = false))

/-! ### Padding, schedule, compression -/

/-- R112 to R115: 0x80, then z zero bytes with z as R113 says, then the bit count modulo 2^64 as eight big-endian bytes. -/
def Obligations.PadLayout : Prop :=
  ∀ count : ByteCount,
    let r := count.toNat % 64
    let z := if r < 56 then 55 - r else 119 - r
    (pad count).length = 1 + z + 8 ∧
    (pad count)[0]? = some 0x80 ∧
    (∀ i : Nat, 1 ≤ i → i ≤ z → (pad count)[i]? = some 0x00) ∧
    ((pad count).drop (1 + z)).foldl (fun acc (b : Byte) => acc * 256 + b.toNat) 0 = (count.toNat * 8) % 2 ^ 64

/-- R116: `count + |pad(count)|` is a multiple of 64, `|pad(count)|` is 64 - r or 128 - r, and the padded tail is one block or two. -/
def Obligations.PadAlignsMessage : Prop :=
  ∀ count : ByteCount,
    let r := count.toNat % 64
    (count.toNat + (pad count).length) % 64 = 0 ∧
    (r < 56 → (pad count).length = 64 - r) ∧ (56 ≤ r → (pad count).length = 128 - r) ∧
    (∀ cache : List Byte, cache.length = r →
      (r < 56 → (cache ++ pad count).length = 64) ∧ (56 ≤ r → (cache ++ pad count).length = 128))

/-- R117: each byte of FB = CACHE ++ pad(COUNT), as the controller generates it. -/
def Obligations.FinalBufferBytes : Prop :=
  ∀ (cache : List Byte) (count : ByteCount), cache.length = count.toNat % 64 →
    (cache ++ pad count).length = finalLength cache ∧
    ∀ i : Nat, i < finalLength cache → (cache ++ pad count)[i]? = some (finalByte cache count i)

/-- R123, R124: a block's 64 schedule words: sixteen big-endian words, and then the recurrence. -/
def Obligations.ScheduleRecurrence : Prop :=
  ∀ block : List Byte, block.length = 64 →
    (schedule block).length = 64 ∧
    (∀ t : Nat, t < 16 →
      ((schedule block).getD t 0).toNat =
        (block.getD (4 * t) 0).toNat * 2 ^ 24 + (block.getD (4 * t + 1) 0).toNat * 2 ^ 16 +
        (block.getD (4 * t + 2) 0).toNat * 2 ^ 8 + (block.getD (4 * t + 3) 0).toNat) ∧
    (∀ t : Nat, 16 ≤ t → t < 64 →
      (schedule block).getD t 0 =
        (schedule block).getD (t - 16) 0 + smallSigma0 ((schedule block).getD (t - 15) 0) +
        (schedule block).getD (t - 7) 0 + smallSigma1 ((schedule block).getD (t - 2) 0))

/-- R125: a 16-word rolling window shows each round exactly the W[t] of R124. -/
def Obligations.RollingWindowShowsSchedule : Prop :=
  ∀ block : List Byte, block.length = 64 →
    ∀ t : Nat, t < 64 →
      (rollingWindow block t).length = 16 ∧ (rollingWindow block t).getD 0 0 = (schedule block).getD t 0

/-- R133, R134: each bit of e selects f's bit or g's; each result bit of Maj is the majority of the three. -/
def Obligations.ChooseAndMajorityByBit : Prop :=
  (∀ (e f g : Word) (i : Nat), i < 32 →
    (choose e f g).getLsbD i = if e.getLsbD i then f.getLsbD i else g.getLsbD i) ∧
  (∀ (a b c : Word) (i : Nat), i < 32 →
    ((majority a b c).getLsbD i = true ↔
      2 ≤ (a.getLsbD i).toNat + (b.getLsbD i).toNat + (c.getLsbD i).toNat)) ∧
  choose 0xFF00FF00 0x12345678 0x9ABCDEF0 = 0x12BC56F0 ∧
  majority 0xFF00FF00 0x0FF00FF0 0x00FFFF00 = 0x0FF0FF00

/-- R14, R121, R122, R131, R132: a right rotation by n moves bit i + n (mod 32) to bit i, and the four sigma functions are the stated
exclusive ors, the last term of each small sigma being a logical shift; with the rules' corner cases and examples. -/
def Obligations.SigmaFunctionsByBit : Prop :=
  smallSigma0 0x00000001 = 0x02004000 ∧ smallSigma0 0xFFFFFFFF = 0x1FFFFFFF ∧ smallSigma0 0 = 0 ∧
  smallSigma1 0x00000001 = 0x0000A000 ∧ smallSigma1 0xFFFFFFFF = 0x003FFFFF ∧ smallSigma1 0 = 0 ∧
  bigSigma0 0x00000001 = 0x40080400 ∧ bigSigma0 0xFFFFFFFF = 0xFFFFFFFF ∧ bigSigma0 0 = 0 ∧
  bigSigma1 0x00000001 = 0x04200080 ∧ bigSigma1 0xFFFFFFFF = 0xFFFFFFFF ∧ bigSigma1 0 = 0 ∧
  ∀ (x : Word) (i : Nat), i < 32 →
    (∀ n : Nat, 0 < n → n < 32 → (rotr x n).getLsbD i = x.getLsbD ((i + n) % 32)) ∧
    (smallSigma0 x).getLsbD i =
      ((x.getLsbD ((i + 7) % 32) ^^ x.getLsbD ((i + 18) % 32)) ^^ (decide (i + 3 < 32) && x.getLsbD (i + 3))) ∧
    (smallSigma1 x).getLsbD i =
      ((x.getLsbD ((i + 17) % 32) ^^ x.getLsbD ((i + 19) % 32)) ^^ (decide (i + 10 < 32) && x.getLsbD (i + 10))) ∧
    (bigSigma0 x).getLsbD i =
      ((x.getLsbD ((i + 2) % 32) ^^ x.getLsbD ((i + 13) % 32)) ^^ x.getLsbD ((i + 22) % 32)) ∧
    (bigSigma1 x).getLsbD i =
      ((x.getLsbD ((i + 6) % 32) ^^ x.getLsbD ((i + 11) % 32)) ^^ x.getLsbD ((i + 25) % 32))

/-- R140 to R144: the block's registers a..h, W and RND run the rounds of `compress` in order, RND counting them; after round 63 the final
addition gives `compress`; and no other register of the block is written on the way. -/
def Obligations.RoundRegistersComputeCompress : Prop :=
  ∀ (S : HashValue) (block : List Byte) (d : Device),
    (∀ n : Nat, n < 64 →
      (Device.runRounds n (d.loadRounds S block)).rnd.toNat = n ∧
      (Device.runRounds n (d.loadRounds S block)).work =
        (List.range n).foldl (fun r i => round (kWord i) ((schedule block).getD i 0) r) (loadWorking S)) ∧
    addBack S (d.compressing S block).work = compress S block ∧
    d.compressing S block = { d with
      work := (d.compressing S block).work, sched := schedule block, rnd := (d.compressing S block).rnd }

/-- R38 to R41: the tables' values are the fractional parts of the cube roots of the first 64 primes and of the square roots of the first 8,
taken to 32 bits (the 32-bit reading is the spec's G1, from general knowledge). -/
def Obligations.ConstantsAreRootFractions : Prop :=
  let primes : List Nat := (List.range 312).filter fun n => decide (2 ≤ n) && (List.range n).all fun d => decide (d < 2) || n % d != 0
  primes.length = 64 ∧ kTable.length = 64 ∧
  (∀ i : Fin 64, ∃ c : Nat, c ^ 3 ≤ primes.getD i.val 0 * 2 ^ 96 ∧ primes.getD i.val 0 * 2 ^ 96 < (c + 1) ^ 3 ∧
    kWord i.val = BitVec.ofNat 32 c) ∧
  (∀ j : Fin 8, ∃ c : Nat, c ^ 2 ≤ primes.getD j.val 0 * 2 ^ 64 ∧ primes.getD j.val 0 * 2 ^ 64 < (c + 1) ^ 2 ∧
    iv[j] = BitVec.ofNat 32 c)

/-- R147's worked compressions: the padded "abc" block from IV, and the all-zero block from the all-zero hash value. -/
def Obligations.CompressExamples : Prop :=
  compress iv ([0x61, 0x62, 0x63] ++ pad 3) =
    #v[0xBA7816BF, 0x8F01CFEA, 0x414140DE, 0x5DAE2223, 0xB00361A3, 0x96177A9C, 0xB410FF61, 0xF20015AD] ∧
  compress zeroHash (zeros 64) =
    #v[0x7CA51614, 0x425C3BA8, 0xCE54DD2F, 0xC2020AE7, 0xB6E574D1, 0x98136D0F, 0xAE7E26CC, 0xBF0BE7A6]

/-! ### The register window -/

/-- R27, R35, R36, R37, R65, R67 and R34's read: what a read of each offset returns, offset by offset. -/
def Obligations.WindowReads : Prop :=
  ∀ d : Device,
    d.busRead 0 = .ok 0x53323536 ∧ d.busRead 2 = .ok 0 ∧ d.busRead 3 = .ok d.dataIn ∧
    (∃ lo hi : Word, d.busRead 4 = .ok lo ∧ d.busRead 5 = .ok hi ∧
      d.count.toNat = hi.toNat * 2 ^ 32 + lo.toNat) ∧
    (d.cache.length ≤ 67 → ∃ w : Word, d.busRead 6 = .ok w ∧ w.toNat = d.cache.length) ∧
    (∀ j : Fin 8, d.busRead (BitVec.ofNat 6 (8 + j.val)) = .ok d.digest[j]) ∧
    d.busRead 7 = .ok 0 ∧ (∀ k : BitVec 6, 16 ≤ k.toNat → d.busRead k = .ok 0)

/-- R28, R29, R31: the fields of STATUS, bit by bit, BUSY being (PHASE != 0). -/
def Obligations.StatusFields : Prop :=
  ∀ d : Device, d.err.toNat ≤ 4 →
    ∃ w : Word, d.busRead 1 = .ok w ∧
      (w.getLsbD 0 = true ↔ w.extractLsb' 2 2 ≠ 0) ∧ (w.getLsbD 1 = d.dvalid) ∧
      (w.extractLsb' 2 2 = match d.phase with | .idle => 0 | .comp => 1 | .fin1 => 2 | .fin2 => 3) ∧
      w.extractLsb' 4 4 = 0 ∧ w.extractLsb' 8 4 = d.err ∧ w.extractLsb' 12 20 = 0

/-- R182 and U14: a read of STATUS stops on an error code of 5 to 15, which "never" is produced, and on no other code. -/
def Obligations.ReservedErrorCodeFaults : Prop :=
  ∀ d : Device,
    (5 ≤ d.err.toNat → d.busRead 1 = .error .reservedErrorCode) ∧
    (d.err.toNat ≤ 4 → ∃ w : Word, d.busRead 1 = .ok w)

/-- R68: a host read completes in one step and changes nothing in the block; only the host's variable takes the value. A DATA_IN write changes
only DATA_IN and is idempotent. -/
def Obligations.ReadsHaveNoSideEffect : Prop :=
  (∀ (s : State) (offset : BitVec 8) (x : Nat) (v : Word),
    s.rstN = true → s.resetSeen = true → s.popTurn.1 = .host → s.host.nextLine = some (.rd offset x) →
    offset.extractLsb' 0 2 = 0 → s.dev.busRead (offset.extractLsb' 2 6) = .ok v →
    ∃ t : State, step s = .next t ∧ t.dev = s.dev ∧ lookupVar x t.host.vars = v ∧
      (∀ y : Nat, y ≠ x → lookupVar y t.host.vars = lookupVar y s.host.vars) ∧
      t.host.program = s.host.program ∧ t.host.pc = s.host.pc + 1 ∧ t.host.halted = s.host.halted ∧
      t.rstN = s.rstN ∧ t.resetSeen = s.resetSeen ∧ t.schedule = s.popTurn.2.schedule) ∧
  (∀ (s : State) (v : Word), ∃ t : State,
    s.busWrite 3 v = .next t ∧ t = s.setDev { s.dev with dataIn := v } ∧ t.busWrite 3 v = .next t)

/-- R66, and R65 of writes: a write to ID, STATUS, COUNT_LO, COUNT_HI, BUF_LEN, DIGEST0..7 or a reserved offset "has no effect and
records no error"; and a step whose host line is such a write completes with only the host moved on. -/
def Obligations.OtherWritesIgnored : Prop :=
  (∀ (k : BitVec 6) (v : Word) (s : State), k ≠ 2 → k ≠ 3 → s.busWrite k v = .next s) ∧
  (∀ (s : State) (offset : BitVec 8) (v : Word),
    s.rstN = true → s.resetSeen = true → s.popTurn.1 = .host → s.host.nextLine = some (.wr offset v) →
    offset.extractLsb' 0 2 = 0 → offset.extractLsb' 2 6 ≠ 2 → offset.extractLsb' 2 6 ≠ 3 →
    step s = .next { s with
      schedule := s.popTurn.2.schedule
      host := { s.host with pc := s.host.pc + 1 } })

/-- R34, R81, R152: a DATA_IN write stores the whole value in every phase and has no other effect; a read returns the last value written;
commands never change it; a step whose host line is that write completes with nothing else of the block changed; and over any step, power-up
aside, DATA_IN changes only by such a host write and by reset. -/
def Obligations.DataInHoldsLastWrite : Prop :=
  (∀ (v : Word) (s : State), ∃ t : State,
    s.busWrite 3 v = .next t ∧ t.dev.dataIn = v ∧ t = s.setDev { s.dev with dataIn := v } ∧
    t.dev.busRead 3 = .ok v ∧
    (∀ (i : Instr) (u : State), exec i t = .next u → u.dev.busRead 3 = .ok v)) ∧
  (∀ (s : State) (v : Word), s.rstN = true → s.resetSeen = true → s.popTurn.1 = .host →
    s.host.nextLine = some (.wr 0x0C v) →
    step s = .next { s with
      dev := { s.dev with dataIn := v }
      schedule := s.popTurn.2.schedule
      host := { s.host with pc := s.host.pc + 1 } }) ∧
  (∀ s t : State, step s = .next t → t.dev.dataIn ≠ s.dev.dataIn → (∀ d : Device, s.popTurn.1 ≠ .powerUp d) →
    (s.popTurn.1 = .host ∧ s.rstN = true ∧ s.host.nextLine = some (.wr 0x0C t.dev.dataIn)) ∨
    (t.rstN = false ∧ t.dev.dataIn = 0))

/-- A step whose turn is the host's, and whose line is an aligned write to CMD of a word that decodes to i, is exec of i, with the turn taken
off the schedule and the host moved to its next line (R33, R96). -/
def Obligations.StepRunsDecodedCommand : Prop :=
  ∀ (s : State) (v : Word) (i : Instr),
    s.rstN = true → s.resetSeen = true → s.popTurn.1 = .host → s.host.nextLine = some (.wr 0x08 v) →
    decode v = .ok i →
    step s = exec i { s with
      schedule := s.popTurn.2.schedule
      host := { s.host with pc := s.host.pc + 1 } }

/-- A command word placed by `withFetchWord` is what the very next step presents (the model's own loading convention, notes/assumptions/5.md). -/
def Obligations.PlacedWordIsPresentedNext : Prop :=
  ∀ (s : State) (w : Nat), s.rstN = true → s.resetSeen = true → w < 2 ^ 32 →
    ∃ h : HostAgent, h.vars = s.host.vars ∧
      step (s.withFetchWord 32 w) = State.writeCmd (BitVec.ofNat 32 w) { s with host := h }

/-- R63, R64, R197: misaligned and sub-word accesses, and a second host, are refused: the machine gives them no step. -/
def Obligations.ForbiddenAccessesRefused : Prop :=
  ∀ s : State,
    (∀ (offset : BitVec 8) (v : Word), s.popTurn.1 = .host → s.host.nextLine = some (.wr offset v) →
      offset.extractLsb' 0 2 ≠ 0 → step s = .refused .misalignedAccess) ∧
    (∀ (offset : BitVec 8) (x : Nat), s.popTurn.1 = .host → s.host.nextLine = some (.rd offset x) →
      offset.extractLsb' 0 2 ≠ 0 → step s = .refused .misalignedAccess) ∧
    (s.popTurn.1 = .subWord → step s = .refused .subWordAccess) ∧
    (s.popTurn.1 = .secondHost → step s = .refused .secondHost)

/-- R101: labels, BNZ and HALT touch no register: they move the host alone. Where a program defines a label more than once, `findLabel` is the
model's own choice (DESIGN CHOICE, notes/assumptions/19.md). -/
def Obligations.HostControlLines : Prop :=
  ∀ s : State,
    (∀ l : Nat, s.popTurn.1 = .host → s.host.nextLine = some (.label l) →
      step s = .next { s.popTurn.2 with host := { s.host with pc := s.host.pc + 1 } }) ∧
    (∀ (x l k : Nat) (mask : Word), s.popTurn.1 = .host → s.host.nextLine = some (.bnz x mask l) →
      lookupVar x s.host.vars &&& mask ≠ 0 → findLabel l s.host.program = some k →
      step s = .next { s.popTurn.2 with host := { s.host with pc := k } } ∧
      s.host.program[k]? = some (.label l)) ∧
    (∀ (x l : Nat) (mask : Word), s.popTurn.1 = .host → s.host.nextLine = some (.bnz x mask l) →
      lookupVar x s.host.vars &&& mask = 0 →
      step s = .next { s.popTurn.2 with host := { s.host with pc := s.host.pc + 1 } }) ∧
    (s.popTurn.1 = .host → s.host.nextLine = some .halt →
      ∃ t : State, step s = .next t ∧ t.dev = s.dev ∧ t.host.halted = true ∧ t.host.nextLine = none)

/-! ### Reset -/

/-- R202: the values reset gives, and that STATUS then reads 0x00000000. -/
def Obligations.ResetValues : Prop :=
  let d := State.reset.dev
  d.hash = #v[0x6a09e667, 0xbb67ae85, 0x3c6ef372, 0xa54ff53a, 0x510e527f, 0x9b05688c, 0x1f83d9ab, 0x5be0cd19] ∧
  d.count = 0 ∧ d.cache = [] ∧ d.dataIn = 0 ∧ d.digest = #v[0, 0, 0, 0, 0, 0, 0, 0] ∧ d.busy = false ∧
  d.dvalid = false ∧ d.phase = .idle ∧ d.err = 0 ∧ d.busRead 1 = .ok 0x00000000 ∧
  State.reset.rstN = true ∧ State.reset.resetSeen = true

/-- R201, R203: a clock edge with `rst_n` low resets the block from every state and phase, those before the first reset too. What HF,
FB, a..h, W and RND hold then is the model's own choice (notes/assumptions/2.md), and this statement does not speak of them. -/
def Obligations.ResetFromEveryState : Prop :=
  ∀ s : State, s.popTurn.1 = .rst false →
    ∃ t : State, step s = .next t ∧ t.dev.AtResetValues ∧ t.rstN = false ∧ t.resetSeen = true ∧ t.host = s.host ∧
      t.schedule = s.popTurn.2.schedule

/-- R201: while `rst_n` = 0 the block stays at its reset values, bus writes have no effect and bus reads return 0; the first edge with it high
again changes nothing in the block; and after power-up, when the block may hold anything, an access before the first reset is
refused. -/
def Obligations.BusAroundReset : Prop :=
  (∀ s : State, s.rstN = false → s.resetSeen = true → s.popTurn.1 = .host →
    (∀ (offset : BitVec 8) (v : Word), s.host.nextLine = some (.wr offset v) → offset.extractLsb' 0 2 = 0 →
      ∃ t : State, step s = .next t ∧ t.dev.AtResetValues ∧ t.rstN = false) ∧
    (∀ (offset : BitVec 8) (x : Nat), s.host.nextLine = some (.rd offset x) → offset.extractLsb' 0 2 = 0 →
      ∃ t : State, step s = .next t ∧ t.dev.AtResetValues ∧ t.rstN = false ∧ lookupVar x t.host.vars = 0)) ∧
  (∀ s : State, s.popTurn.1 = .rst true →
    ∃ t : State, step s = .next t ∧ t.dev = s.dev ∧ t.rstN = true ∧ t.resetSeen = s.resetSeen) ∧
  (∀ (s : State) (d : Device), s.popTurn.1 = .powerUp d →
    ∃ t : State, step s = .next t ∧ t.resetSeen = false ∧ t.dev = d) ∧
  (∀ s : State, s.resetSeen = false → s.popTurn.1 = .host →
    (∀ (offset : BitVec 8) (v : Word), s.host.nextLine = some (.wr offset v) → offset.extractLsb' 0 2 = 0 →
      step s = .refused .beforeFirstReset) ∧
    (∀ (offset : BitVec 8) (x : Nat), s.host.nextLine = some (.rd offset x) → offset.extractLsb' 0 2 = 0 →
      step s = .refused .beforeFirstReset))

/-! ### Whole-machine rules -/

/-- The invariant holds at reset. -/
def Obligations.InvariantAtReset : Prop := State.reset.Inv

/-- Every step keeps the invariant: |CACHE| = COUNT mod 64 at rest (R26), the storage bounds (R25, R43, R44), the meaning of HF and FB
during a DIGEST (R44), ERR's codes (R182), DVALID's meaning (R30), the stated reset values while reset is held (R201), and the order of the host's
variables. -/
def Obligations.StepKeepsInvariant : Prop :=
  ∀ s t : State, s.Inv → step s = .next t → t.Inv

/-- R23: what writes H: the completion of a feed compression (all eight words at once), an accepted INIT, and reset; power-up
aside. -/
def Obligations.HashWrittenOnlyByThree : Prop :=
  ∀ s t : State, step s = .next t → t.dev.hash ≠ s.dev.hash → (∀ d : Device, s.popTurn.1 ≠ .powerUp d) →
    (s.popTurn.1 = .engine ∧ s.dev.phase = .comp ∧ t.dev.hash = compress s.dev.hash (s.dev.cache.take 64)) ∨
    (s.popTurn.1 = .host ∧ s.dev.phase = .idle ∧ s.host.nextLine = some (.wr 0x08 0x00000001) ∧ t.dev.hash = iv) ∨
    (t.rstN = false ∧ t.dev.hash = iv)

/-- R30: DVALID becomes 1 only when a DIGEST completes, and 0 only by the acceptance of FEED, DIGEST or INIT, and by reset; power-up
aside. -/
def Obligations.DvalidChangesOnlyAsTold : Prop :=
  ∀ s t : State, step s = .next t → (∀ d : Device, s.popTurn.1 ≠ .powerUp d) →
    (s.dev.dvalid = false → t.dev.dvalid = true →
      s.popTurn.1 = .engine ∧ t.dev.phase = .idle ∧
      ((s.dev.phase = .fin1 ∧ s.dev.fb.length ≠ 128) ∨ s.dev.phase = .fin2)) ∧
    (s.dev.dvalid = true → t.dev.dvalid = false →
      (s.popTurn.1 = .host ∧ s.dev.phase = .idle ∧
        ∃ (v : Word) (i : Instr), s.host.nextLine = some (.wr 0x08 v) ∧ decode v = .ok i ∧
          (i = .init ∨ i = .digest ∨ ∃ len, i = .feed len)) ∨
      t.rstN = false)

/-- R37: DIGEST0..7 are written together by the step that completes a DIGEST, set to 0 by INIT and reset, and by nothing else; power-up
aside. -/
def Obligations.DigestWrittenOnlyByCompletion : Prop :=
  ∀ s t : State, step s = .next t → t.dev.digest ≠ s.dev.digest → (∀ d : Device, s.popTurn.1 ≠ .powerUp d) →
    (s.popTurn.1 = .engine ∧ (s.dev.phase = .fin1 ∨ s.dev.phase = .fin2) ∧ t.dev.digest = t.dev.hf ∧
      t.dev.dvalid = true ∧ t.dev.phase = .idle) ∨
    (s.popTurn.1 = .host ∧ s.dev.phase = .idle ∧ s.host.nextLine = some (.wr 0x08 0x00000001) ∧ t.dev.digest = zeroHash) ∨
    (t.rstN = false ∧ t.dev.digest = zeroHash)

/-- R190, R32: ERR is written only while it is 0, with a code of 1 to 4, and goes back to 0 only by an accepted CLRERR, an accepted INIT, or
reset; power-up aside. -/
def Obligations.ErrChangesOnlyAsTold : Prop :=
  ∀ s t : State, step s = .next t → t.dev.err ≠ s.dev.err → (∀ d : Device, s.popTurn.1 ≠ .powerUp d) →
    (s.popTurn.1 = .host ∧ s.dev.err = 0 ∧ 1 ≤ t.dev.err.toNat ∧ t.dev.err.toNat ≤ 4) ∨
    (s.popTurn.1 = .host ∧ s.dev.phase = .idle ∧ t.dev.err = 0 ∧
      (s.host.nextLine = some (.wr 0x08 0x00000001) ∨ s.host.nextLine = some (.wr 0x08 0x00000004))) ∨
    (t.rstN = false ∧ t.dev.err = 0)

/-- R24, R209: COUNT changes only by a FEED's acceptance (modulo 2^64), by INIT and by reset; the engine never changes it; power-up aside. -/
def Obligations.CountChangesOnlyByFeed : Prop :=
  ∀ s t : State, step s = .next t → t.dev.count ≠ s.dev.count → (∀ d : Device, s.popTurn.1 ≠ .powerUp d) →
    (s.popTurn.1 = .host ∧ s.dev.phase = .idle ∧
      ∃ (v : Word) (i : Instr), s.host.nextLine = some (.wr 0x08 v) ∧ decode v = .ok i ∧
        ((i = .init ∧ t.dev.count = 0) ∨
          ∃ len : BitVec 2, i = .feed len ∧ t.dev.count.toNat = (s.dev.count.toNat + len.toNat + 1) % 2 ^ 64)) ∨
    (t.rstN = false ∧ t.dev.count = 0)

/-- R207: where the invariant holds and STATUS shows BUSY = 0 and DVALID = 1, the eight DIGEST reads return the digest of the state as it
is. -/
def Obligations.ReadableDigestIsCurrent : Prop :=
  ∀ d : Device, d.Inv → d.digestReadable →
    ∀ j : Fin 8, d.busRead (BitVec.ofNat 6 (8 + j.val)) = .ok (finalDigest d.hash d.cache d.count)[j]

/-! ### Messages -/

/-- R165: if the block at rest holds the message m, then a FEED, once the engine is done, leaves it holding m and the bytes fed. -/
def Obligations.FeedExtendsMessage : Prop :=
  ∀ (s : State) (m : List Byte) (len : BitVec 2), s.dev.Holds m →
    ∃ t : State, exec (.feed len) s = .next t ∧ t.dev.settle.Holds (m ++ feedBytes len s.dev.dataIn)

/-- R165: if the block at rest holds m, a DIGEST completes with DVALID = 1 and DIGEST0..7 the words of SHA256(m), and the block still holds
m. -/
def Obligations.DigestOfHeldMessageIsSha256 : Prop :=
  ∀ (s : State) (m : List Byte), s.dev.Holds m →
    ∃ t : State, exec .digest s = .next t ∧ t.dev.settle.dvalid = true ∧ t.dev.settle.digest = sha256 m ∧
      t.dev.settle.Holds m

/-- R165's start: at reset, and after INIT, the block holds the empty message. -/
def Obligations.InitHoldsEmptyMessage : Prop :=
  State.reset.dev.Holds [] ∧
  ∀ s : State, s.dev.phase = .idle → ∃ t : State, exec .init s = .next t ∧ t.dev.Holds []

/-- R164: nothing that a DIGEST starts writes H, COUNT or CACHE; after it completes the live state is the one before it, and a DIGEST from any
state with that H, COUNT and CACHE (no FEED or INIT between) writes the same digest. -/
def Obligations.DigestIsNonDestructive : Prop :=
  ∀ s : State, s.dev.phase = .idle →
    ∃ t : State, exec .digest s = .next t ∧ t.dev.settle.phase = .idle ∧
      t.dev.engineStep.hash = s.dev.hash ∧ t.dev.engineStep.count = s.dev.count ∧ t.dev.engineStep.cache = s.dev.cache ∧
      t.dev.settle.hash = s.dev.hash ∧ t.dev.settle.count = s.dev.count ∧ t.dev.settle.cache = s.dev.cache ∧
      t.dev.settle.err = s.dev.err ∧
      ∀ s' : State, s'.dev.phase = .idle → s'.dev.hash = s.dev.hash → s'.dev.count = s.dev.count →
        s'.dev.cache = s.dev.cache →
        ∃ t' : State, exec .digest s' = .next t' ∧ t'.dev.settle.digest = t.dev.settle.digest ∧
          t'.dev.settle.dvalid = true

/-- R165, the headline: after INIT, or from reset, any list of feeds leaves the block holding the bytes fed (H, CACHE and COUNT as the rule
says), and a DIGEST then completes with the words of SHA256 of those bytes. The right side depends on the bytes alone, not on how they
were split: chunk-invariance. -/
def Obligations.AnySplitHashesToSha256 : Prop :=
  ∀ cs : List (BitVec 2 × Word),
    (∀ s : State, s.dev.phase = .idle →
      ∃ t u v : State, exec .init s = .next t ∧ runFeeds cs t = .next u ∧ u.dev.Holds (chunkBytes cs) ∧
        exec .digest u = .next v ∧ v.dev.settle.dvalid = true ∧ v.dev.settle.digest = sha256 (chunkBytes cs)) ∧
    (∃ u v : State, runFeeds cs State.reset = .next u ∧ u.dev.Holds (chunkBytes cs) ∧
      exec .digest u = .next v ∧ v.dev.settle.dvalid = true ∧ v.dev.settle.digest = sha256 (chunkBytes cs))

/-- R165, for every run and every interleaving: the block carries the empty message at reset; a step (power-up aside) from a state
of the invariant leaves it carrying the bytes of every FEED accepted since the last INIT or reset, and in the invariant with the reset still
seen, so that the clause chains over a run; at rest that is R165's H, CACHE and COUNT, and a DIGEST then
completes with the words of SHA256 of the message; and whenever the digest is readable, the eight reads return those words. -/
def Obligations.EveryRunHashesItsMessage : Prop :=
  (State.reset.dev.Carries [] ∧ State.reset.Inv ∧ State.reset.resetSeen = true) ∧
  (∀ (s t : State) (m : List Byte), s.Inv → s.resetSeen = true → s.dev.Carries m → step s = .next t →
    (∀ d : Device, s.popTurn.1 ≠ .powerUp d) →
    t.dev.Carries (s.messageAfter t m) ∧ t.Inv ∧ t.resetSeen = true) ∧
  (∀ (s : State) (m : List Byte), s.dev.phase = .idle → s.dev.Carries m →
    s.dev.hash = hashBlocks (m.length / 64) iv m ∧ s.dev.cache = m.drop (64 * (m.length / 64)) ∧
    s.dev.count = BitVec.ofNat 64 m.length ∧
    ∃ t : State, exec .digest s = .next t ∧ t.dev.settle.dvalid = true ∧ t.dev.settle.digest = sha256 m) ∧
  (∀ (d : Device) (m : List Byte), d.Inv → d.Carries m → d.digestReadable →
    ∀ j : Fin 8, d.busRead (BitVec.ofNat 6 (8 + j.val)) = .ok (sha256 m)[j])

/-- R168, R103: the feed procedure's FEEDs carry exactly the message's bytes, in order, and nothing is issued for no bytes. Chunk k is bytes 4k to
4k+3 (the last chunk may be shorter), its word those bytes with zeros behind them, and its five lines are WR DATA_IN of that word, FEED of its length
and a POLL with a label of its own. The lines are well formed. -/
def Obligations.FeedProcedureCarriesMessage : Prop :=
  ∀ m : List Byte,
    chunkBytes (feedChunks m) = m ∧ (feedChunks m).length = (m.length + 3) / 4 ∧
    (∀ l x : Nat, hostProgramWellFormed (feedProcedure m l x) = true ∧
      (feedProcedure m l x).length = 5 * ((m.length + 3) / 4)) ∧
    (∀ (k : Nat) (c : BitVec 2 × Word), (feedChunks m)[k]? = some c →
      let piece := (m.drop (4 * k)).take 4
      c.1.toNat + 1 = piece.length ∧
      [c.2.extractLsb' 24 8, c.2.extractLsb' 16 8, c.2.extractLsb' 8 8, c.2.extractLsb' 0 8] =
        piece ++ zeros (4 - piece.length) ∧
      ∀ l x : Nat, ((feedProcedure m l x).drop (5 * k)).take 5 =
        [.wr 0x0C c.2, .wr 0x08 (encode (.feed c.1)), .label (l + k), .rd 0x04 x, .bnz x 0x1 (l + k)])

/-- R166: hexDigest is 64 characters of 0-9a-f; digest byte i = 4j+k, `DIGESTj[31-8k : 24-8k]` (R37), gives character 2i, `HEX[b >> 4]`, and
character 2i+1, `HEX[b & 0xF]`; and so it determines the digest. -/
def Obligations.HexDigestForm : Prop :=
  (∀ D : HashValue, (hexDigest D).length = 64 ∧ ∀ c ∈ hexDigest D,
    c ∈ ['0', '1', '2', '3', '4', '5', '6', '7', '8', '9', 'a', 'b', 'c', 'd', 'e', 'f']) ∧
  (∀ (D : HashValue) (j : Fin 8) (k : Fin 4),
    let b : Byte := D[j].extractLsb' (24 - 8 * k.val) 8
    let hex : List Char := ['0', '1', '2', '3', '4', '5', '6', '7', '8', '9', 'a', 'b', 'c', 'd', 'e', 'f']
    (hexDigest D)[2 * (4 * j.val + k.val)]? = hex[b.toNat / 16]? ∧
    (hexDigest D)[2 * (4 * j.val + k.val) + 1]? = hex[b.toNat % 16]?) ∧
  (∀ D E : HashValue, hexDigest D = hexDigest E → D = E)

/-- R197: a step of one instance leaves every other instance as it was, and the number of instances too. -/
def Obligations.InstancesShareNothing : Prop :=
  ∀ (sys sys' : System) (k : Nat), sys.stepInstance k = .next sys' →
    sys'.length = sys.length ∧ (∀ j : Nat, j ≠ k → sys'[j]? = sys[j]?) ∧
    ∃ s s' : State, sys[k]? = some s ∧ sys'[k]? = some s' ∧ step s = .next s'

/-- R212: once the host has halted and BUSY = 0, and the outside does nothing more, the machine stays as it is; while BUSY = 1 the run "is not
over: an engine step is still due". What the machine does when the schedule is empty is the model's own choice (`State.defaultTurn`, DESIGN
CHOICE, notes/assumptions/1.md), and both clauses rest on it. -/
def Obligations.FinishedRunStays : Prop :=
  ∀ s : State, s.schedule = [] → s.host.halted = true →
    (s.runOver → step s = .next s) ∧
    (¬s.runOver → s.resetSeen = true → s.rstN = true → step s = .next (s.setDev s.dev.engineStep) ∧ s.dev.engineStep ≠ s.dev)
end

