-- ==== Sys2Proof/Laws/State.lean ====
section
/-! SUPPORT. One lemma a field for each update of the state, so that no later proof unfolds a record update. -/

namespace Sys2Proof.Machine

/-! ### `State.setDev` -/

@[simp] theorem State.setDev_dev (s : State) (d : Device) : (s.setDev d).dev = d := rfl

@[simp] theorem State.setDev_rstN (s : State) (d : Device) : (s.setDev d).rstN = s.rstN := rfl

@[simp] theorem State.setDev_resetSeen (s : State) (d : Device) : (s.setDev d).resetSeen = s.resetSeen := rfl

@[simp] theorem State.setDev_host (s : State) (d : Device) : (s.setDev d).host = s.host := rfl

@[simp] theorem State.setDev_schedule (s : State) (d : Device) : (s.setDev d).schedule = s.schedule := rfl

@[simp] theorem State.setDev_self (s : State) : s.setDev s.dev = s := rfl

@[simp] theorem State.setDev_setDev (s : State) (d e : Device) : (s.setDev d).setDev e = s.setDev e := rfl

/-! ### `State.setHost` -/

@[simp] theorem State.setHost_dev (s : State) (h : HostAgent) : (s.setHost h).dev = s.dev := rfl

@[simp] theorem State.setHost_rstN (s : State) (h : HostAgent) : (s.setHost h).rstN = s.rstN := rfl

@[simp] theorem State.setHost_resetSeen (s : State) (h : HostAgent) : (s.setHost h).resetSeen = s.resetSeen := rfl

@[simp] theorem State.setHost_host (s : State) (h : HostAgent) : (s.setHost h).host = h := rfl

@[simp] theorem State.setHost_schedule (s : State) (h : HostAgent) : (s.setHost h).schedule = s.schedule := rfl

/-! ### `HostAgent.advance` -/

@[simp] theorem HostAgent.advance_program (h : HostAgent) : h.advance.program = h.program := rfl

@[simp] theorem HostAgent.advance_pc (h : HostAgent) : h.advance.pc = h.pc + 1 := rfl

@[simp] theorem HostAgent.advance_vars (h : HostAgent) : h.advance.vars = h.vars := rfl

@[simp] theorem HostAgent.advance_halted (h : HostAgent) : h.advance.halted = h.halted := rfl

/-! ### `State.powerUp` and `State.driveReset` -/

@[simp] theorem State.powerUp_dev (s : State) (d : Device) : (s.powerUp d).dev = d := rfl

@[simp] theorem State.powerUp_rstN (s : State) (d : Device) : (s.powerUp d).rstN = true := rfl

@[simp] theorem State.powerUp_resetSeen (s : State) (d : Device) : (s.powerUp d).resetSeen = false := rfl

@[simp] theorem State.powerUp_host (s : State) (d : Device) : (s.powerUp d).host = s.host := rfl

@[simp] theorem State.powerUp_schedule (s : State) (d : Device) : (s.powerUp d).schedule = s.schedule := rfl

@[simp] theorem State.driveReset_low_dev (s : State) : (s.driveReset false).dev = Device.reset := rfl

@[simp] theorem State.driveReset_low_rstN (s : State) : (s.driveReset false).rstN = false := rfl

@[simp] theorem State.driveReset_low_resetSeen (s : State) : (s.driveReset false).resetSeen = true := rfl

@[simp] theorem State.driveReset_low_host (s : State) : (s.driveReset false).host = s.host := rfl

@[simp] theorem State.driveReset_low_schedule (s : State) : (s.driveReset false).schedule = s.schedule := rfl

@[simp] theorem State.driveReset_high_dev (s : State) : (s.driveReset true).dev = s.dev := rfl

@[simp] theorem State.driveReset_high_rstN (s : State) : (s.driveReset true).rstN = true := rfl

@[simp] theorem State.driveReset_high_resetSeen (s : State) : (s.driveReset true).resetSeen = s.resetSeen := rfl

@[simp] theorem State.driveReset_high_host (s : State) : (s.driveReset true).host = s.host := rfl

@[simp] theorem State.driveReset_high_schedule (s : State) : (s.driveReset true).schedule = s.schedule := rfl

/-! ### `State.popTurn` -/

@[simp] theorem State.popTurn_dev (s : State) : s.popTurn.2.dev = s.dev := by
  unfold State.popTurn; split <;> rfl

@[simp] theorem State.popTurn_rstN (s : State) : s.popTurn.2.rstN = s.rstN := by
  unfold State.popTurn; split <;> rfl

@[simp] theorem State.popTurn_resetSeen (s : State) : s.popTurn.2.resetSeen = s.resetSeen := by
  unfold State.popTurn; split <;> rfl

@[simp] theorem State.popTurn_host (s : State) : s.popTurn.2.host = s.host := by
  unfold State.popTurn; split <;> rfl

/-! ### `Device.raise` and `Device.clearErr` -/

@[simp] theorem Device.raise_hash (c : ErrCode) (d : Device) : (d.raise c).hash = d.hash := by
  unfold Device.raise; split <;> rfl

@[simp] theorem Device.raise_count (c : ErrCode) (d : Device) : (d.raise c).count = d.count := by
  unfold Device.raise; split <;> rfl

@[simp] theorem Device.raise_cache (c : ErrCode) (d : Device) : (d.raise c).cache = d.cache := by
  unfold Device.raise; split <;> rfl

@[simp] theorem Device.raise_dataIn (c : ErrCode) (d : Device) : (d.raise c).dataIn = d.dataIn := by
  unfold Device.raise; split <;> rfl

@[simp] theorem Device.raise_digest (c : ErrCode) (d : Device) : (d.raise c).digest = d.digest := by
  unfold Device.raise; split <;> rfl

@[simp] theorem Device.raise_dvalid (c : ErrCode) (d : Device) : (d.raise c).dvalid = d.dvalid := by
  unfold Device.raise; split <;> rfl

@[simp] theorem Device.raise_phase (c : ErrCode) (d : Device) : (d.raise c).phase = d.phase := by
  unfold Device.raise; split <;> rfl

@[simp] theorem Device.raise_hf (c : ErrCode) (d : Device) : (d.raise c).hf = d.hf := by
  unfold Device.raise; split <;> rfl

@[simp] theorem Device.raise_fb (c : ErrCode) (d : Device) : (d.raise c).fb = d.fb := by
  unfold Device.raise; split <;> rfl

@[simp] theorem Device.raise_work (c : ErrCode) (d : Device) : (d.raise c).work = d.work := by
  unfold Device.raise; split <;> rfl

@[simp] theorem Device.raise_sched (c : ErrCode) (d : Device) : (d.raise c).sched = d.sched := by
  unfold Device.raise; split <;> rfl

@[simp] theorem Device.raise_rnd (c : ErrCode) (d : Device) : (d.raise c).rnd = d.rnd := by
  unfold Device.raise; split <;> rfl

@[simp] theorem Device.raise_err (c : ErrCode) (d : Device) :
    (d.raise c).err = if d.err = 0 then c.code else d.err := by
  unfold Device.raise; split <;> rfl

@[simp] theorem Device.clearErr_hash (d : Device) : d.clearErr.hash = d.hash := rfl

@[simp] theorem Device.clearErr_count (d : Device) : d.clearErr.count = d.count := rfl

@[simp] theorem Device.clearErr_cache (d : Device) : d.clearErr.cache = d.cache := rfl

@[simp] theorem Device.clearErr_dataIn (d : Device) : d.clearErr.dataIn = d.dataIn := rfl

@[simp] theorem Device.clearErr_digest (d : Device) : d.clearErr.digest = d.digest := rfl

@[simp] theorem Device.clearErr_dvalid (d : Device) : d.clearErr.dvalid = d.dvalid := rfl

@[simp] theorem Device.clearErr_phase (d : Device) : d.clearErr.phase = d.phase := rfl

@[simp] theorem Device.clearErr_err (d : Device) : d.clearErr.err = 0 := rfl

@[simp] theorem Device.clearErr_hf (d : Device) : d.clearErr.hf = d.hf := rfl

@[simp] theorem Device.clearErr_fb (d : Device) : d.clearErr.fb = d.fb := rfl

@[simp] theorem Device.clearErr_work (d : Device) : d.clearErr.work = d.work := rfl

@[simp] theorem Device.clearErr_sched (d : Device) : d.clearErr.sched = d.sched := rfl

@[simp] theorem Device.clearErr_rnd (d : Device) : d.clearErr.rnd = d.rnd := rfl

/-! ### The acceptances -/

@[simp] theorem Device.acceptInit_hash (d : Device) : d.acceptInit.hash = iv := rfl

@[simp] theorem Device.acceptInit_count (d : Device) : d.acceptInit.count = 0 := rfl

@[simp] theorem Device.acceptInit_cache (d : Device) : d.acceptInit.cache = [] := rfl

@[simp] theorem Device.acceptInit_dataIn (d : Device) : d.acceptInit.dataIn = d.dataIn := rfl

@[simp] theorem Device.acceptInit_digest (d : Device) : d.acceptInit.digest = zeroHash := rfl

@[simp] theorem Device.acceptInit_dvalid (d : Device) : d.acceptInit.dvalid = false := rfl

@[simp] theorem Device.acceptInit_phase (d : Device) : d.acceptInit.phase = d.phase := rfl

@[simp] theorem Device.acceptInit_err (d : Device) : d.acceptInit.err = 0 := rfl

@[simp] theorem Device.acceptInit_hf (d : Device) : d.acceptInit.hf = d.hf := rfl

@[simp] theorem Device.acceptInit_fb (d : Device) : d.acceptInit.fb = d.fb := rfl

@[simp] theorem Device.acceptInit_work (d : Device) : d.acceptInit.work = d.work := rfl

@[simp] theorem Device.acceptInit_sched (d : Device) : d.acceptInit.sched = d.sched := rfl

@[simp] theorem Device.acceptInit_rnd (d : Device) : d.acceptInit.rnd = d.rnd := rfl

@[simp] theorem Device.acceptDigest_hash (d : Device) : d.acceptDigest.hash = d.hash := rfl

@[simp] theorem Device.acceptDigest_count (d : Device) : d.acceptDigest.count = d.count := rfl

@[simp] theorem Device.acceptDigest_cache (d : Device) : d.acceptDigest.cache = d.cache := rfl

@[simp] theorem Device.acceptDigest_dataIn (d : Device) : d.acceptDigest.dataIn = d.dataIn := rfl

@[simp] theorem Device.acceptDigest_digest (d : Device) : d.acceptDigest.digest = d.digest := rfl

@[simp] theorem Device.acceptDigest_dvalid (d : Device) : d.acceptDigest.dvalid = false := rfl

@[simp] theorem Device.acceptDigest_phase (d : Device) : d.acceptDigest.phase = .fin1 := rfl

@[simp] theorem Device.acceptDigest_err (d : Device) : d.acceptDigest.err = d.err := rfl

@[simp] theorem Device.acceptDigest_hf (d : Device) : d.acceptDigest.hf = d.hash := rfl

@[simp] theorem Device.acceptDigest_fb (d : Device) : d.acceptDigest.fb = d.cache ++ pad d.count := rfl

@[simp] theorem Device.acceptDigest_work (d : Device) : d.acceptDigest.work = d.work := rfl

@[simp] theorem Device.acceptDigest_sched (d : Device) : d.acceptDigest.sched = d.sched := rfl

@[simp] theorem Device.acceptDigest_rnd (d : Device) : d.acceptDigest.rnd = d.rnd := rfl

@[simp] theorem Device.acceptFeed_hash (len : BitVec 2) (d : Device) :
    (Device.acceptFeed len d).hash = d.hash := by
  simp only [Device.acceptFeed]; split <;> simp

@[simp] theorem Device.acceptFeed_count (len : BitVec 2) (d : Device) :
    (Device.acceptFeed len d).count = d.count + BitVec.ofNat 64 (feedCount len) := by
  simp only [Device.acceptFeed]

@[simp] theorem Device.acceptFeed_cache (len : BitVec 2) (d : Device) :
    (Device.acceptFeed len d).cache = d.cache ++ feedBytes len d.dataIn := rfl

@[simp] theorem Device.acceptFeed_dataIn (len : BitVec 2) (d : Device) :
    (Device.acceptFeed len d).dataIn = d.dataIn := by
  simp only [Device.acceptFeed]; split <;> simp

@[simp] theorem Device.acceptFeed_digest (len : BitVec 2) (d : Device) :
    (Device.acceptFeed len d).digest = d.digest := by
  simp only [Device.acceptFeed]; split <;> simp

@[simp] theorem Device.acceptFeed_dvalid (len : BitVec 2) (d : Device) :
    (Device.acceptFeed len d).dvalid = false := rfl

@[simp] theorem Device.acceptFeed_phase (len : BitVec 2) (d : Device) :
    (Device.acceptFeed len d).phase = if 64 ≤ (d.cache ++ feedBytes len d.dataIn).length then .comp else d.phase := rfl

@[simp] theorem Device.acceptFeed_err (len : BitVec 2) (d : Device) :
    (Device.acceptFeed len d).err = if d.lengthExceeded (feedCount len) then (d.raise .length).err else d.err := by
  simp only [Device.acceptFeed]; split <;> simp

@[simp] theorem Device.acceptFeed_hf (len : BitVec 2) (d : Device) :
    (Device.acceptFeed len d).hf = d.hf := by
  simp only [Device.acceptFeed]; split <;> simp

@[simp] theorem Device.acceptFeed_fb (len : BitVec 2) (d : Device) :
    (Device.acceptFeed len d).fb = d.fb := by
  simp only [Device.acceptFeed]; split <;> simp

@[simp] theorem Device.acceptFeed_work (len : BitVec 2) (d : Device) :
    (Device.acceptFeed len d).work = d.work := by
  simp only [Device.acceptFeed]; split <;> simp

@[simp] theorem Device.acceptFeed_sched (len : BitVec 2) (d : Device) :
    (Device.acceptFeed len d).sched = d.sched := by
  simp only [Device.acceptFeed]; split <;> simp

@[simp] theorem Device.acceptFeed_rnd (len : BitVec 2) (d : Device) :
    (Device.acceptFeed len d).rnd = d.rnd := by
  simp only [Device.acceptFeed]; split <;> simp

end Sys2Proof.Machine
end

