-- ==== Sys2Proof/Laws/Compression.lean ====
section
/-! SUPPORT. The rounds in the block's own registers (R140): what a run of them leaves alone, and what it leaves in a..h and RND. -/

namespace Sys2Proof.Machine

/-- A run of rounds writes the registers a..h and RND, and nothing else. -/
theorem Device.runRounds_frame (n : Nat) (d : Device) :
    Device.runRounds n d = { d with work := (Device.runRounds n d).work, rnd := (Device.runRounds n d).rnd } := by
  induction n generalizing d with
  | zero => rfl
  | succ n ih => rw [Device.runRounds, ih]; rfl

/-- What n rounds from round number `d.rnd` on leave in a..h: the fold over the rounds in increasing order (R140). -/
theorem Device.runRounds_work (n : Nat) (d : Device) (h : d.rnd.toNat + n ≤ 64) :
    (Device.runRounds n d).work =
      (List.range' d.rnd.toNat n).foldl (fun r i => round (kWord i) (d.sched.getD i 0) r) d.work := by
  induction n generalizing d with
  | zero => rfl
  | succ n ih =>
    rcases Nat.eq_zero_or_pos n with rfl | hn
    · rfl
    · have hr : (d.rnd + 1).toNat = d.rnd.toNat + 1 := by
        rw [BitVec.toNat_add]; simp; omega
      rw [Device.runRounds, ih _ (by rw [Device.runRound]; simp only []; omega)]
      simp only [Device.runRound, hr, List.range'_succ, List.foldl_cons]

/-- RND counts the rounds (R45). -/
theorem Device.runRounds_rnd (n : Nat) (d : Device) :
    (Device.runRounds n d).rnd = d.rnd + BitVec.ofNat 6 n := by
  induction n generalizing d with
  | zero => simp [Device.runRounds]
  | succ n ih =>
    rw [Device.runRounds, ih, Device.runRound]
    simp only []
    apply BitVec.eq_of_toNat_eq
    simp [BitVec.toNat_add]
    omega

/-- A whole compression writes a..h, W and RND, and nothing else (R144). -/
theorem Device.compressing_frame (S : HashValue) (block : List Byte) (d : Device) :
    d.compressing S block = { d with
      work := (d.compressing S block).work, sched := schedule block, rnd := (d.compressing S block).rnd } := by
  conv_lhs => rw [Device.compressing, Device.runRounds_frame]
  rfl

end Sys2Proof.Machine
end

