-- ==== Sys2Proof/Laws/Decode.lean ====
section
/-! SUPPORT. What the decoder answers on each kind of word (R96): the lemmas cited in place of unfolding it. -/

namespace Sys2Proof

theorem decode_of_illegal {v : Word} (h : 4 < (opcodeField v).toNat) : decode v = .error .illegalOp := by
  unfold decode; rw [if_pos h]

theorem decode_of_reserved {v : Word} (h : (opcodeField v).toNat ≤ 4)
    (hr : rsvField v ≠ 0 ∨ (opcodeField v ≠ 2 ∧ lenField v ≠ 0)) : decode v = .error .reservedBits := by
  unfold decode; rw [if_neg (by omega), if_pos hr]

/-- A word that passes R96's tests selects a command. -/
theorem decode_isOk {v : Word} (h : (opcodeField v).toNat ≤ 4) (hr : rsvField v = 0)
    (hl : opcodeField v = 2 ∨ lenField v = 0) : ∃ i, decode v = .ok i := by
  have hnot : ¬(rsvField v ≠ 0 ∨ (opcodeField v ≠ 2 ∧ lenField v ≠ 0)) := by
    rintro (h1 | ⟨h1, h2⟩)
    · exact h1 hr
    · exact hl.elim h1 h2
  unfold decode
  rw [if_neg (by omega), if_neg hnot]
  split <;> exact ⟨_, rfl⟩

/-- Inversion of the decoder: what a word that decodes looks like, field by field. -/
theorem decode_ok_cases {v : Word} {i : Instr} (h : decode v = .ok i) :
    rsvField v = 0 ∧
    ((i = .nop ∧ opcodeField v = 0 ∧ lenField v = 0) ∨ (i = .init ∧ opcodeField v = 1 ∧ lenField v = 0) ∨
     (i = .feed (lenField v) ∧ opcodeField v = 2) ∨ (i = .digest ∧ opcodeField v = 3 ∧ lenField v = 0) ∨
     (i = .clrerr ∧ opcodeField v = 4 ∧ lenField v = 0)) := by
  unfold decode at h
  split_ifs at h with h1 h2
  push Not at h2
  obtain ⟨hr, hl⟩ := h2
  refine ⟨hr, ?_⟩
  generalize opcodeField v = o at *
  generalize lenField v = l at *
  obtain ⟨n, hn, rfl⟩ : ∃ n : Nat, n ≤ 4 ∧ o = BitVec.ofNat 8 n := ⟨o.toNat, by omega, by simp⟩
  clear h1 hr
  interval_cases n <;> simp at h hl <;> subst h <;> simp [hl]

end Sys2Proof
end

