-- ==== Sys2Proof/Laws/Ops.lean ====
section
/-! SUPPORT. What each shared operation can do, said once: presenting a command, decoding a word, writing and reading the window. -/

namespace Sys2Proof.Machine

/-- BUSY is `PHASE != 0` (R29), so being at rest and BUSY = 0 are one thing. -/
theorem Device.busy_eq_false_iff (d : Device) : d.busy = false ↔ d.phase = .idle := by
  unfold Device.busy; cases d.phase <;> decide

theorem Device.busy_eq_true_iff (d : Device) : d.busy = true ↔ d.phase ≠ .idle := by
  rw [← Bool.not_eq_false, Device.busy_eq_false_iff]

/-- At rest a command is accepted. -/
theorem State.present_rest {s : State} (accept : Device → Device) (h : s.dev.phase = .idle) :
    s.present accept = .next (s.setDev (accept s.dev)) := by
  simp [State.present, (Device.busy_eq_false_iff s.dev).2 h]

/-- While the engine works every command is refused with BUSY. -/
theorem State.present_busy {s : State} (accept : Device → Device) (h : s.dev.phase ≠ .idle) :
    s.present accept = .next (s.setDev (s.dev.raise .busy)) := by
  simp [State.present, (Device.busy_eq_true_iff s.dev).2 h]

/-- The acceptance of a command, by its instruction. -/
def acceptOf : Instr → Device → Device
  | .nop => Device.acceptNop
  | .init => Device.acceptInit
  | .feed len => Device.acceptFeed len
  | .digest => Device.acceptDigest
  | .clrerr => Device.acceptClrerr

/-- Every arm of the dispatch presents the acceptance of its command. -/
theorem exec_eq_present (i : Instr) (s : State) : exec i s = s.present (acceptOf i) := by
  cases i <;> rfl

/-- Inversion of `exec`: every command goes on, and either it was accepted at rest or BUSY was raised. -/
theorem exec_cases {i : Instr} {s t : State} (h : exec i s = .next t) :
    (s.dev.phase = .idle ∧ t = s.setDev (acceptOf i s.dev)) ∨
      (s.dev.phase ≠ .idle ∧ t = s.setDev (s.dev.raise .busy)) := by
  rw [exec_eq_present] at h
  by_cases hp : s.dev.phase = .idle
  · rw [State.present_rest _ hp] at h
    exact .inl ⟨hp, (Host.Outcome.next.inj h).symm⟩
  · rw [State.present_busy _ hp] at h
    exact .inr ⟨hp, (Host.Outcome.next.inj h).symm⟩

/-- A record update of ERR is what `raise` does. -/
theorem Device.raise_eq (c : ErrCode) (d : Device) :
    d.raise c = { d with err := if d.err = 0 then c.code else d.err } := by
  unfold Device.raise; split <;> simp_all

/-- Inversion of `writeCmd` (R96): the BUSY refusal, a rejected word, or the command of a word that decodes. -/
theorem State.writeCmd_cases (v : Word) (s : State) :
    (s.dev.phase ≠ .idle ∧ s.writeCmd v = .next (s.setDev (s.dev.raise .busy))) ∨
    (s.dev.phase = .idle ∧ ∃ r, decode v = .error r ∧ s.writeCmd v = .next (s.setDev (s.dev.raise (rejectCode r)))) ∨
    (s.dev.phase = .idle ∧ ∃ i, decode v = .ok i ∧ s.writeCmd v = .next (s.setDev (acceptOf i s.dev))) := by
  by_cases hp : s.dev.phase = .idle
  · right
    have hb := (Device.busy_eq_false_iff s.dev).2 hp
    cases hd : decode v with
    | error r => exact .inl ⟨hp, r, rfl, by simp [State.writeCmd, hb, hd]⟩
    | ok i => exact .inr ⟨hp, i, rfl, by simp [State.writeCmd, hb, hd, exec_eq_present, State.present_rest _ hp]⟩
  · exact .inl ⟨hp, by simp [State.writeCmd, (Device.busy_eq_true_iff s.dev).2 hp]⟩

/-- The register at a word index, by index: CMD and DATA_IN are the two that take a write. -/
theorem regAt_cmd_iff (k : BitVec 6) : regAt k = some .cmd ↔ k = 2 := by
  revert k; decide

theorem regAt_dataIn_iff (k : BitVec 6) : regAt k = some .dataIn ↔ k = 3 := by
  revert k; decide

/-- Inversion of `busWrite`: a CMD write, a DATA_IN write, or nothing (R62, R65, R66). -/
theorem State.busWrite_cases (k : BitVec 6) (v : Word) (s : State) :
    (k = 2 ∧ s.busWrite k v = s.writeCmd v) ∨ (k = 3 ∧ s.busWrite k v = s.writeDataIn v) ∨
      (k ≠ 2 ∧ k ≠ 3 ∧ s.busWrite k v = .next s) := by
  unfold State.busWrite
  rcases h : regAt k with _ | r
  · exact .inr (.inr ⟨fun e => by simp [(regAt_cmd_iff k).2 e] at h, fun e => by simp [(regAt_dataIn_iff k).2 e] at h, rfl⟩)
  · have h2 := regAt_cmd_iff k
    have h3 := regAt_dataIn_iff k
    rw [h] at h2 h3
    cases r <;> simp_all

/-- Inversion of `clockEdge` (R81, R201). -/
theorem State.clockEdge_cases (p : Pins) (s : State) :
    (p.rstN = false ∧ s.clockEdge p = .next (s.setDev Device.reset)) ∨
    (p.rstN = true ∧ p.busReq = true ∧ p.busWe = true ∧ s.clockEdge p = s.busWrite p.busAddr p.busWdata) ∨
    (p.rstN = true ∧ (p.busReq && p.busWe) = false ∧ s.clockEdge p = .next s) := by
  rcases p with ⟨_ | _, _ | _, _ | _, a, w⟩ <;> simp [State.clockEdge]

/-- A CMD write of a word that encodes a command and decodes to it is the command, busy or at rest. -/
theorem State.writeCmd_of_decode {v : Word} {i : Instr} (h : decode v = .ok i) (s : State) :
    s.writeCmd v = exec i s := by
  rw [exec_eq_present]
  by_cases hp : s.dev.phase = .idle
  · simp [State.writeCmd, (Device.busy_eq_false_iff s.dev).2 hp, h, exec_eq_present]
  · simp [State.writeCmd, (Device.busy_eq_true_iff s.dev).2 hp, State.present_busy _ hp]

end Sys2Proof.Machine
end

