-- ==== Sys2Proof/Laws/Parts.lean ====
section
/-! SUPPORT. The small lemmas of the operand, padding, schedule, message and engine definitions: lengths, and how the loops
unfold. -/

namespace Sys2Proof.Machine

/-! ### Operands -/

theorem feedBytes_length (len : BitVec 2) (x : Word) : (feedBytes len x).length = len.toNat + 1 := by
  simp [feedBytes, lanes, feedCount]; omega

/-! ### Padding -/

theorem be64enc_length (v : BitVec 64) : (be64enc v).length = 8 := rfl

theorem pad_length (count : ByteCount) : (pad count).length = 1 + padZeros count + 8 := by
  simp [pad, zeros, be64enc_length]; omega

/-! ### Schedule -/

theorem extendSchedule_length (n : Nat) (w : List Word) : (extendSchedule n w).length = w.length + n := by
  induction n generalizing w with
  | zero => rfl
  | succ n ih => rw [extendSchedule, ih]; simp; omega

/-- Words already there stay. -/
theorem extendSchedule_getD_of_lt {n t : Nat} {w : List Word} (h : t < w.length) :
    (extendSchedule n w).getD t 0 = w.getD t 0 := by
  induction n generalizing w with
  | zero => rfl
  | succ n ih =>
    rw [extendSchedule, ih (by simp; omega)]
    simp [List.getD_eq_getElem?_getD, List.getElem?_append_left h]

theorem blockWords_length {q : Nat} {b : List Byte} (h : b.length = 4 * q) : (blockWords b).length = q := by
  induction q generalizing b with
  | zero => simp at h; subst h; rfl
  | succ q ih =>
    match b, h with
    | b0 :: b1 :: b2 :: b3 :: r, h => simp [blockWords]; apply ih; simp at h; omega
    | [], h => exact absurd h (by simp)
    | [_], h => exact absurd h (by simp; omega)
    | [_, _], h => exact absurd h (by simp; omega)
    | [_, _, _], h => exact absurd h (by simp; omega)

/-! ### Messages -/

/-- Bytes behind the blocks that are folded do not matter. -/
theorem hashBlocks_append {q : Nat} {m : List Byte} (h : 64 * q ≤ m.length) (S : HashValue) (x : List Byte) :
    hashBlocks q S (m ++ x) = hashBlocks q S m := by
  induction q generalizing S m with
  | zero => rfl
  | succ q ih =>
    rw [hashBlocks, hashBlocks, List.take_append_of_le_length (by omega), List.drop_append_of_le_length (by omega),
      ih (by simp; omega)]

/-- A fold over p + q blocks is a fold over p and then one over the next q. -/
theorem hashBlocks_add (p q : Nat) (S : HashValue) (m : List Byte) :
    hashBlocks (p + q) S m = hashBlocks q (hashBlocks p S m) (m.drop (64 * p)) := by
  induction p generalizing S m with
  | zero => simp [hashBlocks]
  | succ p ih =>
    rw [show p + 1 + q = (p + q) + 1 by omega, hashBlocks, hashBlocks, ih, List.drop_drop]
    congr 2; omega

/-! ### Engine -/

theorem Device.engineStep_of_idle {d : Device} (h : d.phase = .idle) : d.engineStep = d := by
  simp [Device.engineStep, h]

theorem Device.engineStep_of_comp {d : Device} (h : d.phase = .comp) : d.engineStep = d.stepComp := by
  simp [Device.engineStep, h]

theorem Device.engineStep_of_fin1 {d : Device} (h : d.phase = .fin1) : d.engineStep = d.stepFin1 := by
  simp [Device.engineStep, h]

theorem Device.engineStep_of_fin2 {d : Device} (h : d.phase = .fin2) : d.engineStep = d.stepFin2 := by
  simp [Device.engineStep, h]

end Sys2Proof.Machine
end

