-- ==== Sys2Proof/Laws/PerInstr.lean ====
section
/-! SUPPORT. The family OpcodeRow: each command's word lies in its own row of the opcode map (R95). -/

namespace Sys2Proof.Laws.OpcodeRow

/-- The command word meets its row: `(word & mask) = match` (R95). -/
def Statement (i : Instr) : Prop := (opcodeRow i).selects (encode i) = true

theorem nop : Statement .nop := by unfold Statement; decide

theorem init : Statement .init := by unfold Statement; decide

theorem feed (len : BitVec 2) : Statement (.feed len) := by unfold Statement; revert len; decide

theorem digest : Statement .digest := by unfold Statement; decide

theorem clrerr : Statement .clrerr := by unfold Statement; decide

end Sys2Proof.Laws.OpcodeRow
end

