-- ==== Sys2Proof/Laws/Step.lean ====
section
/-! SUPPORT. What a step can do, said once (`step_cases`), with the lemmas about host variables, host lines and runs that lead to it. -/

namespace Sys2Proof.Machine

/-! ### Host variables -/

theorem lookupVar_assignVar_same (x : Nat) (v : Word) (l : List (Nat × Word)) :
    lookupVar x (assignVar x v l) = v := by
  induction l with
  | nil => simp [assignVar, lookupVar]
  | cons p l ih =>
    obtain ⟨y, u⟩ := p
    unfold assignVar
    split_ifs with h1 h2
    · simp [lookupVar]
    · simp [lookupVar]
    · simp [lookupVar, h2, ih]

theorem lookupVar_assignVar_other {x y : Nat} (h : y ≠ x) (v : Word) (l : List (Nat × Word)) :
    lookupVar y (assignVar x v l) = lookupVar y l := by
  induction l with
  | nil => simp [assignVar, lookupVar, h]
  | cons p l ih =>
    obtain ⟨z, u⟩ := p
    unfold assignVar
    split_ifs with h1 h2
    · simp [lookupVar, h]
    · subst h2; simp [lookupVar, h]
    · simp [lookupVar, ih]

theorem mem_assignVar {x : Nat} {v : Word} {l : List (Nat × Word)} {p : Nat × Word} (h : p ∈ assignVar x v l) :
    p = (x, v) ∨ p ∈ l := by
  induction l with
  | nil => simpa [assignVar] using h
  | cons q l ih =>
    obtain ⟨y, u⟩ := q
    unfold assignVar at h
    split_ifs at h with h1 h2
    · simpa using h
    · rcases List.mem_cons.1 h with h | h
      · exact .inl h
      · exact .inr (List.mem_cons_of_mem _ h)
    · rcases List.mem_cons.1 h with h | h
      · exact .inr (h ▸ List.mem_cons_self ..)
      · exact (ih h).imp_right (List.mem_cons_of_mem _)

/-- Assigning a host variable keeps the canonical order. -/
theorem varsSorted_assignVar (x : Nat) (v : Word) {l : List (Nat × Word)} (h : varsSorted l) :
    varsSorted (assignVar x v l) := by
  induction l with
  | nil => simp [assignVar, varsSorted]
  | cons p l ih =>
    obtain ⟨y, u⟩ := p
    obtain ⟨hy, hl⟩ := List.pairwise_cons.1 h
    unfold assignVar
    split_ifs with h1 h2
    · exact List.pairwise_cons.2 ⟨fun q hq => (List.mem_cons.1 hq).elim (fun e => e ▸ h1) (fun e => h1.trans (hy q e)), h⟩
    · subst h2; exact List.pairwise_cons.2 ⟨fun q hq => hy q hq, hl⟩
    · refine List.pairwise_cons.2 ⟨fun q hq => ?_, ih hl⟩
      rcases mem_assignVar hq with rfl | hq
      · exact Nat.lt_of_le_of_ne (Nat.le_of_not_lt h1) (Ne.symm h2)
      · exact hy q hq

/-! ### Host lines -/

/-- A found label is the label of the line found. -/
theorem findLabel_spec {l k : Nat} {p : List HostLine} (h : findLabel l p = some k) : p[k]? = some (.label l) := by
  induction p generalizing k with
  | nil => simp [findLabel] at h
  | cons a p ih =>
    unfold findLabel at h
    split_ifs at h with h1
    · cases h; simpa using h1
    · obtain ⟨j, hj, rfl⟩ := Option.map_eq_some_iff.1 h
      simpa using ih hj

theorem State.runLine_bnz_zero {s : State} {x l : Nat} {m : Word} (h : lookupVar x s.host.vars &&& m = 0) :
    s.runLine (.bnz x m l) = .next s := by
  unfold State.runLine; simp only []; rw [if_pos h]

theorem State.runLine_bnz_taken {s : State} {x l k : Nat} {m : Word} (h : lookupVar x s.host.vars &&& m ≠ 0)
    (hk : findLabel l s.host.program = some k) :
    s.runLine (.bnz x m l) = .next (s.setHost { s.host with pc := k }) := by
  unfold State.runLine; simp only []; rw [if_neg h, hk]

/-- An aligned host write to a block that is out of reset is the bus write. -/
theorem State.hostWrite_aligned {s : State} {o : BitVec 8} (v : Word) (h1 : s.rstN = true) (h2 : s.resetSeen = true)
    (ho : o.extractLsb' 0 2 = 0) : s.hostWrite o v = s.busWrite (o.extractLsb' 2 6) v := by
  simp [State.hostWrite, State.accessRefused, h2, State.accessPins, State.clockEdge, h1, ho]

/-- A host write to CMD of a block that is out of reset is the CMD write. -/
theorem State.hostWrite_cmd {s : State} (v : Word) (h1 : s.rstN = true) (h2 : s.resetSeen = true) :
    s.hostWrite 0x08 v = s.writeCmd v := State.hostWrite_aligned v h1 h2 rfl

/-- A host write to DATA_IN of a block that is out of reset is the DATA_IN write. -/
theorem State.hostWrite_dataIn {s : State} (v : Word) (h1 : s.rstN = true) (h2 : s.resetSeen = true) :
    s.hostWrite 0x0C v = s.writeDataIn v := State.hostWrite_aligned v h1 h2 rfl

/-- A host turn runs the host's next line. -/
theorem step_of_host_line {s : State} {line : HostLine} (ht : s.popTurn.1 = .host) (hl : s.host.nextLine = some line) :
    step s = (s.popTurn.2.setHost s.host.advance).runLine line := by
  simp [step, ht, takeTurn, State.hostTurn, hl]

/-! ### Steps -/

/-- What the block does in one step: nothing; a DATA_IN write; one of R96's three outcomes of a CMD write; an engine step; reset, or
reset held; or power-up. Each case says which turn it was and what the pin and the reset history are after it. -/
inductive BlockStep (s t : State) : Prop where
  /-- Nothing happened to the block. -/
  | quiet (dev : t.dev = s.dev) (seen : t.resetSeen = s.resetSeen) (pin : t.rstN = s.rstN ∨ t.rstN = true)
  /-- A host write to DATA_IN. -/
  | dataIn (v : Word) (turn : s.popTurn.1 = .host) (pin : s.rstN = true ∧ t.rstN = true)
      (seen : t.resetSeen = s.resetSeen) (line : s.host.nextLine = some (.wr 0x0C v))
      (dev : t.dev = { s.dev with dataIn := v })
  /-- A CMD write while BUSY = 1. -/
  | busy (turn : s.popTurn.1 = .host) (pin : s.rstN = true ∧ t.rstN = true) (seen : t.resetSeen = s.resetSeen)
      (phase : s.dev.phase ≠ .idle) (dev : t.dev = s.dev.raise .busy)
  /-- A CMD write at rest of a rejected word. -/
  | rejected (v : Word) (r : Reject) (turn : s.popTurn.1 = .host) (pin : s.rstN = true ∧ t.rstN = true)
      (seen : t.resetSeen = s.resetSeen) (phase : s.dev.phase = .idle) (line : s.host.nextLine = some (.wr 0x08 v))
      (word : decode v = .error r) (dev : t.dev = s.dev.raise (rejectCode r))
  /-- A CMD write at rest of a command. -/
  | accepted (v : Word) (i : Instr) (turn : s.popTurn.1 = .host) (pin : s.rstN = true ∧ t.rstN = true)
      (seen : t.resetSeen = s.resetSeen) (phase : s.dev.phase = .idle) (line : s.host.nextLine = some (.wr 0x08 v))
      (word : decode v = .ok i) (dev : t.dev = acceptOf i s.dev)
  /-- An engine step. -/
  | engine (turn : s.popTurn.1 = .engine) (pin : s.rstN = true ∧ t.rstN = true) (seen : t.resetSeen = s.resetSeen)
      (dev : t.dev = s.dev.engineStep)
  /-- A clock edge with `rst_n` low. -/
  | reset (pin : t.rstN = false) (seen : t.resetSeen = true) (dev : t.dev = Device.reset)
  /-- Power-up. -/
  | powerUp (d : Device) (turn : s.popTurn.1 = .powerUp d) (pin : t.rstN = true) (seen : t.resetSeen = false)
      (dev : t.dev = d)

theorem offset_of_cmd_index (o : BitVec 8) : o.extractLsb' 0 2 = 0 → o.extractLsb' 2 6 = 2 → o = 0x08 := by
  revert o; decide

theorem offset_of_dataIn_index (o : BitVec 8) : o.extractLsb' 0 2 = 0 → o.extractLsb' 2 6 = 3 → o = 0x0C := by
  revert o; decide

/-- Inversion of a host line, given that the host has been moved on already. -/
theorem State.runLine_cases {s u t : State} {line : HostLine} (hl : s.host.nextLine = some line) (ht : s.popTurn.1 = .host)
    (hd : u.dev = s.dev) (hp : u.rstN = s.rstN) (hr : u.resetSeen = s.resetSeen) (h : u.runLine line = .next t) :
    BlockStep s t ∧ (varsSorted u.host.vars → varsSorted t.host.vars) := by
  cases line with
  | label l => cases h; exact ⟨.quiet hd hr (.inl hp), id⟩
  | halt => cases h; exact ⟨.quiet hd hr (.inl hp), id⟩
  | bnz x m l =>
    unfold State.runLine at h
    simp only [] at h
    split_ifs at h
    · cases h; exact ⟨.quiet hd hr (.inl hp), id⟩
    · split at h
      · cases h; exact ⟨.quiet hd hr (.inl hp), id⟩
      · cases h
  | wr o v =>
    simp only [State.runLine, State.hostWrite, State.accessRefused] at h
    split_ifs at h with h1 h2
    · simp only [ne_eq, Decidable.not_not] at h1
      simp only [] at h
      rcases State.clockEdge_cases (u.accessPins o true v) u with ⟨e1, e⟩ | ⟨e1, _, _, e⟩ | ⟨_, e1, _⟩
      · rw [e] at h; cases h
        exact ⟨.reset e1 h2 rfl, id⟩
      · rw [e] at h
        rcases State.busWrite_cases (o.extractLsb' 2 6) v u with ⟨k, e'⟩ | ⟨k, e'⟩ | ⟨_, _, e'⟩
        · have e'' : u.busWrite (u.accessPins o true v).busAddr (u.accessPins o true v).busWdata = u.writeCmd v := e'
          rw [e''] at h
          have ho := offset_of_cmd_index o h1 k
          subst ho
          rcases State.writeCmd_cases v u with ⟨f1, f⟩ | ⟨f1, r, f2, f⟩ | ⟨f1, i, f2, f⟩
          · rw [f] at h; cases h
            exact ⟨.busy ht ⟨hp ▸ e1, e1⟩ hr (hd ▸ f1) (by simp [hd]), id⟩
          · rw [f] at h; cases h
            exact ⟨.rejected v r ht ⟨hp ▸ e1, e1⟩ hr (hd ▸ f1) hl f2 (by simp [hd]), id⟩
          · rw [f] at h; cases h
            exact ⟨.accepted v i ht ⟨hp ▸ e1, e1⟩ hr (hd ▸ f1) hl f2 (by simp [hd]), id⟩
        · have e'' : u.busWrite (u.accessPins o true v).busAddr (u.accessPins o true v).busWdata = u.writeDataIn v := e'
          rw [e''] at h; cases h
          have ho := offset_of_dataIn_index o h1 k
          subst ho
          exact ⟨.dataIn v ht ⟨hp ▸ e1, e1⟩ hr hl (by simp [hd]), id⟩
        · have e'' : u.busWrite (u.accessPins o true v).busAddr (u.accessPins o true v).busWdata = .next u := e'
          rw [e''] at h; cases h
          exact ⟨.quiet hd hr (.inl hp), id⟩
      · simp [State.accessPins] at e1
  | rd o x =>
    simp only [State.runLine, State.hostRead, State.accessRefused] at h
    split_ifs at h with h1 h2
    · simp only [] at h
      split at h
      · cases h
      · rename_i v _
        rcases State.clockEdge_cases (u.accessPins o false 0) (u.setHost { u.host with vars := assignVar x v u.host.vars }) with
          ⟨e1, e⟩ | ⟨_, _, e1, _⟩ | ⟨_, _, e⟩
        · rw [e] at h; cases h
          exact ⟨.reset e1 h2 rfl, varsSorted_assignVar x v⟩
        · simp [State.accessPins] at e1
        · rw [e] at h; cases h
          exact ⟨.quiet hd hr (.inl hp), varsSorted_assignVar x v⟩

/-- Inversion of `step`: what happened to the block, and that host variables stay in order. -/
theorem step_cases {s t : State} (h : step s = .next t) :
    BlockStep s t ∧ (varsSorted s.host.vars → varsSorted t.host.vars) := by
  unfold step takeTurn at h
  cases ht : s.popTurn.1 with
  | host =>
    simp only [ht, State.hostTurn] at h
    cases hl : s.host.nextLine with
    | none =>
      simp only [State.popTurn_host, hl] at h
      cases h
      exact ⟨.quiet (by simp) (by simp) (by simp), by simp⟩
    | some line =>
      simp only [State.popTurn_host, hl] at h
      have := State.runLine_cases hl ht (by simp) (by simp) (by simp) h
      simpa using this
  | engine =>
    simp only [ht, State.engineTurn] at h
    split_ifs at h with h1 h2
    · cases h
      exact ⟨.engine ht ⟨by simpa using h2, by simpa using h2⟩ (by simp) (by simp), by simp⟩
    · cases h
      exact ⟨.reset (by simpa using h2) (by simpa using h1) (by simp), by simp⟩
  | rst level =>
    simp only [ht] at h
    cases h
    cases level
    · exact ⟨.reset (by simp) (by simp) (by simp), by simp⟩
    · exact ⟨.quiet (by simp) (by simp) (.inr (by simp)), by simp⟩
  | powerUp d =>
    simp only [ht] at h
    cases h
    exact ⟨.powerUp d ht (by simp) (by simp) (by simp), by simp⟩
  | subWord => simp only [ht] at h; cases h
  | secondHost => simp only [ht] at h; cases h

/-- A step other than power-up never forgets a reset (R201). -/
theorem step_keeps_resetSeen {s t : State} (h : step s = .next t) (hp : ∀ d : Device, s.popTurn.1 ≠ .powerUp d)
    (hr : s.resetSeen = true) : t.resetSeen = true := by
  cases (step_cases h).1 with
  | quiet _ seen _ => exact seen.trans hr
  | dataIn _ _ _ seen _ _ => exact seen.trans hr
  | busy _ _ seen _ _ => exact seen.trans hr
  | rejected _ _ _ _ seen _ _ _ _ => exact seen.trans hr
  | accepted _ _ _ _ seen _ _ _ _ => exact seen.trans hr
  | engine _ _ seen _ => exact seen.trans hr
  | reset _ seen _ => exact seen
  | powerUp d turn _ _ _ => exact absurd turn (hp d)

/-! ### Runs -/

/-- One more step in front of a run. -/
theorem core_run_succ {s t : State} (n : Nat) (h : step s = .next t) :
    Sys2Proof.core.run (n + 1) s = Sys2Proof.core.run n t := by
  have h' : Sys2Proof.core.step s = .next t := h
  simp only [Host.Core.run, h']

end Sys2Proof.Machine
end

