-- ==== Sys2Proof/Tests/Slice0.lean ====
section
/-! SUPPORT. The model's own tests. Expected values are the spec's (95_test_vectors.md unless another file is named). Then the witnesses: for
each statement with hypotheses, a concrete state and operands that meet them, at the boundary values of its clauses. -/

open Sys2Proof Sys2Proof.Machine

namespace Sys2Proof.Tests

/-! ### Helpers -/

/-- The next state, if there is one. -/
def next? (o : Host.Outcome State Fault Refusal) : Option State :=
  match o with
  | .next s => some s
  | .fault _ => none
  | .refused _ => none

theorem eq_next {o : Host.Outcome State Fault Refusal} {t : State} (h : next? o = some t) : o = .next t := by
  cases o <;> simp_all [next?]

/-- The refusal, if there is one. -/
def refusal? (o : Host.Outcome State Fault Refusal) : Option Refusal :=
  match o with
  | .refused r => some r
  | .next _ => none
  | .fault _ => none

/-- The state after a step. -/
def after (s : State) : State := (next? (step s)).getD s

theorem step_after {s : State} (h : (next? (step s)).isSome = true) : step s = .next (after s) := by
  apply eq_next
  rw [after]
  cases hs : next? (step s) <;> simp_all

/-- The state after a command. -/
def afterExec (i : Instr) (s : State) : State := (next? (exec i s)).getD s

theorem exec_after {i : Instr} {s : State} (h : (next? (exec i s)).isSome = true) : exec i s = .next (afterExec i s) := by
  apply eq_next
  rw [afterExec]
  cases hs : next? (exec i s) <;> simp_all

/-- A block in phase p with n cached zero bytes and a count that fits. -/
def block (p : Phase) (n : Nat) : Device :=
  { Device.reset with phase := p, cache := zeros n, count := BitVec.ofNat 64 n }

/-- A state with this block. -/
def withBlock (d : Device) : State := { State.reset with dev := d }

/-- The state with this turn next. -/
def onTurn (t : Turn) (s : State) : State := { s with schedule := [t] }

/-- The state whose host takes this line next, its variable 7 holding 1. -/
def onLine (line : HostLine) (s : State) : State :=
  { s with host := ⟨[line, .label 3], 0, [(7, 1)], false⟩, schedule := [.host] }

/-! ### WellFormed: one ill-formed program for each check -/

theorem test_wellFormed_ok : hostProgramWellFormed (commandLine .init :: finalLines 0 1 ++ [.halt]) = true := by decide

/-- R63: an offset that is no multiple of 4. -/
theorem test_wellFormed_misaligned_write : hostProgramWellFormed [.wr 0x09 0] = false := by decide

theorem test_wellFormed_misaligned_read : hostProgramWellFormed [.rd 0x06 0] = false := by decide

/-- R101: a target that no line defines. -/
theorem test_wellFormed_missing_label : hostProgramWellFormed [.label 1, .bnz 0 1 2] = false := by decide

/-- R103: a label defined twice. -/
theorem test_wellFormed_label_twice : hostProgramWellFormed [.label 1, .label 1] = false := by decide

/-- Every command is well formed (R93, R94): there is no ill-formed one to refuse. -/
theorem test_wellFormed_commands (i : Instr) : WellFormed i = true := by cases i <;> rfl

/-! ### Decoding: the words of R95 written out bit by bit, and 2.7's refused words -/

theorem test_decode_nop : decode 0b00000000000000000000000000000000 = .ok .nop := by decide
theorem test_decode_init : decode 0b00000000000000000000000000000001 = .ok .init := by decide
theorem test_decode_feed1 : decode 0b00000000000000000000000000000010 = .ok (.feed 0) := by decide
theorem test_decode_feed2 : decode 0b00000000000000000000000100000010 = .ok (.feed 1) := by decide
theorem test_decode_feed3 : decode 0b00000000000000000000001000000010 = .ok (.feed 2) := by decide
theorem test_decode_feed4 : decode 0b00000000000000000000001100000010 = .ok (.feed 3) := by decide
theorem test_decode_digest : decode 0b00000000000000000000000000000011 = .ok .digest := by decide
theorem test_decode_clrerr : decode 0b00000000000000000000000000000100 = .ok .clrerr := by decide

theorem test_decode_refused :
    decode 0x00000005 = .error .illegalOp ∧ decode 0x000000FF = .error .illegalOp ∧
    decode 0xFFFFFF05 = .error .illegalOp ∧ decode 0x00000400 = .error .reservedBits ∧
    decode 0x00000101 = .error .reservedBits ∧ decode 0x00000103 = .error .reservedBits ∧
    decode 0x80000002 = .error .reservedBits := by decide

theorem test_decodeTableWord :
    decodeTableWord 32 0x302 = some (.feed 3) ∧ decodeTableWord 32 0x5 = none ∧ decodeTableWord 32 (2 ^ 32) = none := by
  decide

/-- A placed word runs as the first command after reset: FEED 4 of DATA_IN = 0 leaves COUNT = 4 and four cached bytes. -/
theorem test_placed_word_runs : (after (State.reset.withFetchWord 32 0x302)).dev.count = 4 ∧
    (after (State.reset.withFetchWord 32 0x302)).dev.cache = [0, 0, 0, 0] := by decide

/-! ### The algorithm's parts -/

/-- 2.2. -/
theorem test_sigma : smallSigma0 0x80000000 = 0x11002000 ∧ smallSigma1 0x80000000 = 0x00205000 ∧
    bigSigma0 0x80000000 = 0x20040200 ∧ bigSigma1 0x80000000 = 0x02100040 ∧ rotr 0x12345678 8 = 0x78123456 := by decide

/-- 2.1: counts 3, 56, 2^61 - 1 and 2^61. -/
theorem test_pad : (pad 3).length = 61 ∧ (pad 3).drop 53 = [0, 0, 0, 0, 0, 0, 0, 0x18] ∧ (pad 56).length = 72 ∧
    (pad 0x1FFFFFFFFFFFFFFF).drop 57 = [0xff, 0xff, 0xff, 0xff, 0xff, 0xff, 0xff, 0xf8] ∧
    (pad 0x2000000000000000).drop 56 = [0, 0, 0, 0, 0, 0, 0, 0] := by decide

/-- 2.3: W[63] of the padded "abc" block. -/
theorem test_schedule_abc : (schedule ([0x61, 0x62, 0x63] ++ pad 3)).getD 63 0 = 0x12B1EDEB := by decide +kernel

/-- 2.5: a and e after round 0, which a swap of two registers or addends would change. -/
theorem test_round0_abc :
    (round (kWord 0) 0x61626380 (loadWorking iv)).a = 0x5D6AEBCD ∧
    (round (kWord 0) 0x61626380 (loadWorking iv)).e = 0xFA2A4622 ∧
    (round (kWord 0) 0x61626380 (loadWorking iv)).h = 0x1F83D9AB := by decide

/-- 2.5: compress(IV, zeros(64)). -/
theorem test_compress_zeros : compress iv (zeros 64) =
    #v[0xDA5698BE, 0x17B9B469, 0x62335799, 0x779FBECA, 0x8CE5D491, 0xC0D26243, 0xBAFEF9EA, 0x1837A9D8] := by decide +kernel

/-- 2.6: the 56-byte two-block message of bytes "a". -/
theorem test_sha256_two_final_blocks : sha256 (List.replicate 56 0x61) =
    #v[0xB35439A4, 0xAC6F0948, 0xB6D6F9E3, 0xC6AF0F5F, 0x590CE20F, 0x1BDE7090, 0xEF797068, 0x6EC6738A] := by decide +kernel

/-- The same through the block's own registers, FIN1 and then FIN2 (A8). -/
theorem test_engine_two_final_blocks :
    (Device.acceptDigest { Device.reset with cache := List.replicate 56 0x61, count := 56 }).settle.digest =
    #v[0xB35439A4, 0xAC6F0948, 0xB6D6F9E3, 0xC6AF0F5F, 0x590CE20F, 0x1BDE7090, 0xEF797068, 0x6EC6738A] := by decide +kernel

/-- R166: two characters a byte, high half first. -/
theorem test_hexByte : hexByte 0xa7 = ['a', '7'] := by decide

/-! ### Commands: at most two each -/

theorem test_nop_keeps_dvalid : (afterExec .nop (withBlock { Device.reset with dvalid := true })).dev.dvalid = true := by decide

theorem test_nop_busy_raises : (afterExec .nop (withBlock (block .comp 64))).dev.statusWord = 0x105 := by decide

/-- A14. -/
theorem test_init_keeps_dataIn :
    (afterExec .init (withBlock { block .idle 5 with dataIn := 0xDEADBEEF, err := 3, dvalid := true })).dev =
      { Device.reset with dataIn := 0xDEADBEEF } := by decide

/-- A10. -/
theorem test_feed_length_error :
    (afterExec (.feed 0) (withBlock { block .idle 63 with count := 0x1FFFFFFFFFFFFFFF })).dev.statusWord = 0x405 ∧
    (afterExec (.feed 0) (withBlock { block .idle 63 with count := 0x1FFFFFFFFFFFFFFF })).dev.count = 0x2000000000000000 := by
  decide

/-- R70, R156: lanes from the top, the low lanes ignored. -/
theorem test_feed_lanes : (afterExec (.feed 1) (withBlock { block .idle 0 with dataIn := 0x61626364 })).dev.cache = [0x61, 0x62] := by
  decide

/-- A9: one final block. -/
theorem test_digest_starts_fin1 : (afterExec .digest (withBlock (block .idle 55))).dev.statusWord = 0x9 ∧
    (afterExec .digest (withBlock (block .idle 55))).dev.fb.length = 64 := by decide

/-- A8: after one engine step STATUS is 0xD. -/
theorem test_digest_reaches_fin2 : (afterExec .digest (withBlock (block .idle 56))).dev.engineStep.statusWord = 0xD := by decide +kernel

theorem test_clrerr_clears : (afterExec .clrerr (withBlock { Device.reset with err := 2 })).dev.err = 0 := by decide

/-- 2.7: CLRERR while busy is refused, and ERR becomes BUSY. -/
theorem test_clrerr_busy : (afterExec .clrerr (withBlock (block .comp 64))).dev.err = 1 := by decide

/-! ### The window, the host and reset -/

/-- A1, A16 and R62: reads by offset, each register at the place the map gives it. -/
theorem test_reads :
    Device.reset.busRead 0 = .ok 0x53323536 ∧
    (block .comp 67).busRead 6 = .ok 67 ∧ (block .comp 67).busRead 4 = .ok 67 ∧ (block .comp 67).busRead 1 = .ok 0x5 ∧
    Device.busRead { Device.reset with count := 0x0123456789ABCDEF } 4 = .ok 0x89ABCDEF ∧
    Device.busRead { Device.reset with count := 0x0123456789ABCDEF } 5 = .ok 0x01234567 ∧
    Device.busRead { Device.reset with digest := iv } 8 = .ok 0x6a09e667 ∧
    Device.busRead { Device.reset with digest := iv } 15 = .ok 0x5be0cd19 ∧
    Device.busRead { Device.reset with digest := iv } 16 = .ok 0 := by decide

/-- U14. -/
theorem test_reserved_error_code_faults : Device.busRead { Device.reset with err := 5 } 1 = .error .reservedErrorCode := by decide

/-- R62: the digest registers' offsets. -/
theorem test_offsets : (Reg.digest 7).offset = 0x3C ∧ Reg.bufLen.offset = 0x18 := by decide

/-- R201, R203 (A17): reset in FIN1. -/
theorem test_reset_abandons : (after (onTurn (.rst false) (withBlock { block .fin1 3 with err := 2 }))).dev = Device.reset := by decide

theorem test_bnz_taken : (after (onLine (.bnz 7 1 3) State.reset)).host.pc = 1 := by decide

theorem test_refusals :
    refusal? (step (onLine (.wr 0x09 0) State.reset)) = some .misalignedAccess ∧
    refusal? (step (onLine (.bnz 7 1 99) State.reset)) = some .undefinedLabel ∧
    refusal? (step (onTurn .secondHost State.reset)) = some .secondHost := by decide

/-! ### Witnesses -/

theorem witness_DecodeEncodeAgree : WellFormed (.feed 3) = true ∧ decode 0x302 = .ok (.feed 3) := by decide

theorem witness_DecodeFollowsOpcodeMap :
    decode 0x302 = .ok (.feed 3) ∧ ((0x0 : Word) &&& 0xFFFFFFFF) = 0x0 ∧ ((0x1 : Word) &&& 0xFFFFFFFF) = 0x1 ∧
    ((0x302 : Word) &&& 0xFFFFFCFF) = 0x2 ∧ ((0x3 : Word) &&& 0xFFFFFFFF) = 0x3 ∧ ((0x4 : Word) &&& 0xFFFFFFFF) = 0x4 ∧
    ∀ row ∈ opcodeTable, row.selects 0x402 = false := by decide

/-- Opcodes 5 and 255, RSV on FEED, and LEN on CLRERR, at rest. -/
theorem witness_IllegalAndReservedWordsRefused :
    State.reset.dev.phase = .idle ∧ 4 < ((0x5 : Word).extractLsb' 0 8).toNat ∧ 4 < ((0xFF : Word).extractLsb' 0 8).toNat ∧
    ((0x402 : Word).extractLsb' 0 8).toNat ≤ 4 ∧ (0x402 : Word).extractLsb' 10 22 ≠ 0 ∧
    ((0x104 : Word).extractLsb' 0 8).toNat ≤ 4 ∧ ((0x104 : Word).extractLsb' 0 8).toNat ≠ 2 ∧
    (0x104 : Word).extractLsb' 8 2 ≠ 0 := by decide

theorem witness_CmdWriteProcedure :
    (block .comp 64).busy = true ∧ (block .idle 0).busy = false ∧ 4 < ((0x5 : Word).extractLsb' 0 8).toNat ∧
    ((0x80000004 : Word).extractLsb' 0 8).toNat ≤ 4 ∧ (0x80000004 : Word).extractLsb' 10 22 ≠ 0 ∧
    ((0x302 : Word).extractLsb' 0 8).toNat = 2 ∧ (0x302 : Word).extractLsb' 10 22 = 0 ∧
    ((0x4 : Word).extractLsb' 0 8).toNat ≤ 4 ∧ (0x4 : Word).extractLsb' 10 22 = 0 ∧ (0x4 : Word).extractLsb' 8 2 = 0 := by
  decide

/-- At rest and in each busy phase: NopHasNoEffect, InitReconstructs, ClrerrClearsErr, BusyRefusesEveryCommand,
InitHoldsEmptyMessage. -/
theorem witness_rest_and_busy :
    (withBlock (block .idle 3)).dev.phase = .idle ∧ (withBlock (block .comp 64)).dev.phase ≠ .idle ∧
    (withBlock (block .fin1 3)).dev.phase ≠ .idle ∧ (withBlock (block .fin2 56)).dev.phase ≠ .idle := by decide

/-- 63 cached bytes and FEED 1, which fills the block, and FEED 4 on 63. -/
theorem witness_FeedAppendsBytes :
    (block .idle 63).phase = .idle ∧ (block .idle 63).cache.length ≤ 63 ∧
    (Device.acceptFeed 0 (block .idle 63)).phase = .comp ∧ (Device.acceptFeed 3 (block .idle 63)).phase = .comp := by decide

theorem witness_FeedCornerCases :
    (block .idle 60).phase = .idle ∧ (block .idle 60).cache.length = 60 ∧ (block .idle 63).cache.length = 63 ∧
    (block .idle 59).cache.length = 59 ∧
    Device.phase { block .idle 63 with count := 0xFFFFFFFFFFFFFFFF } = .idle ∧
    (Device.count { block .idle 63 with count := 0xFFFFFFFFFFFFFFFF }).toNat = 2 ^ 64 - 1 := by decide

/-- 55 and 56 cached bytes. -/
theorem witness_DigestSnapshots :
    (block .idle 55).phase = .idle ∧ (block .idle 55).cache.length = (block .idle 55).count.toNat % 64 ∧
    (block .idle 55).cache.length ≤ 55 ∧ (block .idle 56).phase = .idle ∧
    (block .idle 56).cache.length = (block .idle 56).count.toNat % 64 ∧ 56 ≤ (block .idle 56).cache.length := by decide

theorem witness_FirstErrorIsKept : Device.reset.err = 0 ∧ Device.err { Device.reset with err := 4 } ≠ 0 := by decide

/-- Each command at rest, and one while busy. -/
theorem witness_CommandsFrame :
    (∃ t, exec .nop State.reset = .next t) ∧ (∃ t, exec .init State.reset = .next t) ∧
    (∃ t, exec (.feed 3) State.reset = .next t) ∧ (∃ t, exec .digest State.reset = .next t) ∧
    (∃ t, exec .clrerr State.reset = .next t) ∧ (∃ t, exec .digest (withBlock (block .comp 64)) = .next t) ∧
    State.reset.dev.phase = .idle ∧ (withBlock (block .comp 64)).dev.phase ≠ .idle :=
  ⟨⟨_, exec_after (by decide)⟩, ⟨_, exec_after (by decide)⟩, ⟨_, exec_after (by decide)⟩, ⟨_, exec_after (by decide)⟩,
    ⟨_, exec_after (by decide)⟩, ⟨_, exec_after (by decide)⟩, by decide, by decide⟩

/-- A block in FIN1 with one final block, and with two; and one in FIN2. -/
def fin1One : Device := Device.acceptDigest (block .idle 55)
def fin1Two : Device := Device.acceptDigest (block .idle 56)
def fin2 : Device := { fin1Two with phase := .fin2 }

/-- EngineCompletesFeed, EngineStepsFin1 (both lengths of FB), EngineStepsFin2. -/
theorem witness_engine_steps :
    State.reset.resetSeen = true ∧ State.reset.rstN = true ∧ (withBlock (block .comp 64)).dev.phase = .comp ∧
    (withBlock fin1One).dev.phase = .fin1 ∧ (withBlock fin1One).dev.fb.length ≠ 128 ∧
    (withBlock fin1Two).dev.phase = .fin1 ∧ (withBlock fin1Two).dev.fb.length = 128 ∧
    (withBlock fin2).dev.phase = .fin2 := by decide +kernel

/-- Steps that are no power-up: a DIGEST write, and the three engine steps. -/
theorem witness_PhaseMovesOnlyAsTabled :
    step (onLine (.wr 8 3) State.reset) = .next (after (onLine (.wr 8 3) State.reset)) ∧
    step (onTurn .engine (withBlock fin1Two)) = .next (after (onTurn .engine (withBlock fin1Two))) ∧
    (∀ d, (onLine (.wr 8 3) State.reset).popTurn.1 ≠ .powerUp d) ∧
    (∀ d, (onTurn .engine (withBlock fin1Two)).popTurn.1 ≠ .powerUp d) :=
  ⟨step_after (by decide), step_after (by decide), nofun, nofun⟩

/-- One step due, and two. -/
theorem witness_EveryBusyPeriodEnds :
    (withBlock fin1Two).resetSeen = true ∧ (withBlock fin1Two).rstN = true ∧ (withBlock fin1Two).schedule = [] ∧
    (withBlock fin1Two).dev.busy = true ∧ (withBlock (block .comp 64)).dev.busy = true := by decide

/-- r = 55 has no zero byte; r = 56 has 63, the last at index 63. -/
theorem witness_PadLayout : (55 : ByteCount).toNat % 64 < 56 ∧ ¬(56 : ByteCount).toNat % 64 < 56 ∧ (1 : Nat) ≤ 63 ∧
    63 ≤ 119 - (56 : ByteCount).toNat % 64 := by decide

theorem witness_PadAlignsMessage :
    (zeros 55).length = (119 : ByteCount).toNat % 64 ∧ (119 : ByteCount).toNat % 64 < 56 ∧
    (zeros 56).length = (120 : ByteCount).toNat % 64 ∧ 56 ≤ (120 : ByteCount).toNat % 64 := by decide

/-- The last byte of one final block, and of two. -/
theorem witness_FinalBufferBytes :
    (zeros 55).length = (55 : ByteCount).toNat % 64 ∧ 63 < finalLength (zeros 55) ∧
    (zeros 56).length = (56 : ByteCount).toNat % 64 ∧ 127 < finalLength (zeros 56) := by decide

/-- ScheduleRecurrence and RollingWindowShowsSchedule: t at 15, 16 and 63. -/
theorem witness_schedule : (zeros 64).length = 64 ∧ 15 < 16 ∧ 16 ≤ 16 ∧ 63 < 64 := by decide

/-- ChooseAndMajorityByBit, SigmaFunctionsByBit (i = 31; n = 1 and 31), RoundRegistersComputeCompress (n = 63). -/
theorem witness_bit_and_round_bounds : (31 : Nat) < 32 ∧ (0 : Nat) < 1 ∧ (63 : Nat) < 64 := by decide

/-- 67 cached bytes, and the indexes 16 and 63. -/
theorem witness_WindowReads : (block .comp 67).cache.length ≤ 67 ∧ 16 ≤ (16 : BitVec 6).toNat ∧ 16 ≤ (63 : BitVec 6).toNat := by decide

/-- StatusFields and ReservedErrorCodeFaults: ERR = 4 and ERR = 5. -/
theorem witness_error_code_bounds : (Device.err { Device.reset with err := 4 }).toNat ≤ 4 ∧
    5 ≤ (Device.err { Device.reset with err := 5 }).toNat := by decide

/-- The first and the last word of the window. -/
theorem witness_ReadsHaveNoSideEffect :
    (onLine (.rd 0x00 7) State.reset).rstN = true ∧ (onLine (.rd 0x00 7) State.reset).resetSeen = true ∧
    (onLine (.rd 0x00 7) State.reset).popTurn.1 = .host ∧
    (onLine (.rd 0x00 7) State.reset).host.nextLine = some (.rd 0x00 7) ∧
    (0x00 : BitVec 8).extractLsb' 0 2 = 0 ∧ (0xFC : BitVec 8).extractLsb' 0 2 = 0 ∧
    State.reset.dev.busRead ((0x00 : BitVec 8).extractLsb' 2 6) = .ok 0x53323536 ∧
    State.reset.dev.busRead ((0xFC : BitVec 8).extractLsb' 2 6) = .ok 0 := by decide

/-- The indexes beside CMD and DATA_IN, and a host line that writes to STATUS. -/
theorem witness_OtherWritesIgnored :
    (1 : BitVec 6) ≠ 2 ∧ (1 : BitVec 6) ≠ 3 ∧ (4 : BitVec 6) ≠ 2 ∧ (4 : BitVec 6) ≠ 3 ∧
    (onLine (.wr 4 9) State.reset).rstN = true ∧ (onLine (.wr 4 9) State.reset).resetSeen = true ∧
    (onLine (.wr 4 9) State.reset).popTurn.1 = .host ∧ (onLine (.wr 4 9) State.reset).host.nextLine = some (.wr 4 9) ∧
    (4 : BitVec 8).extractLsb' 0 2 = 0 ∧ (4 : BitVec 8).extractLsb' 2 6 ≠ 2 ∧ (4 : BitVec 8).extractLsb' 2 6 ≠ 3 := by decide

/-- A command after the write, and a DATA_IN line that runs and changes DATA_IN. -/
theorem witness_DataInHoldsLastWrite :
    (∃ t, exec (.feed 3) State.reset = .next t) ∧ (onLine (.wr 0x0C 9) State.reset).rstN = true ∧
    (onLine (.wr 0x0C 9) State.reset).resetSeen = true ∧ (onLine (.wr 0x0C 9) State.reset).popTurn.1 = .host ∧
    (onLine (.wr 0x0C 9) State.reset).host.nextLine = some (.wr 0x0C 9) ∧
    step (onLine (.wr 0x0C 9) State.reset) = .next (after (onLine (.wr 0x0C 9) State.reset)) ∧
    (after (onLine (.wr 0x0C 9) State.reset)).dev.dataIn ≠ (onLine (.wr 0x0C 9) State.reset).dev.dataIn ∧
    ∀ d, (onLine (.wr 0x0C 9) State.reset).popTurn.1 ≠ .powerUp d :=
  ⟨⟨_, exec_after (by decide)⟩, rfl, rfl, rfl, rfl, step_after (by decide), by decide, nofun⟩

theorem witness_StepRunsDecodedCommand :
    (onLine (.wr 8 0x302) State.reset).rstN = true ∧ (onLine (.wr 8 0x302) State.reset).resetSeen = true ∧
    (onLine (.wr 8 0x302) State.reset).popTurn.1 = .host ∧
    (onLine (.wr 8 0x302) State.reset).host.nextLine = some (.wr 0x08 0x302) ∧ decode 0x302 = .ok (.feed 3) := by decide

theorem witness_PlacedWordIsPresentedNext : State.reset.rstN = true ∧ State.reset.resetSeen = true ∧ 0x302 < 2 ^ 32 := by decide

theorem witness_ForbiddenAccessesRefused :
    (onLine (.wr 9 0) State.reset).popTurn.1 = .host ∧ (onLine (.wr 9 0) State.reset).host.nextLine = some (.wr 9 0) ∧
    (9 : BitVec 8).extractLsb' 0 2 ≠ 0 ∧ (onLine (.rd 6 0) State.reset).host.nextLine = some (.rd 6 0) ∧
    (6 : BitVec 8).extractLsb' 0 2 ≠ 0 ∧ (onTurn .subWord State.reset).popTurn.1 = .subWord ∧
    (onTurn .secondHost State.reset).popTurn.1 = .secondHost := by decide

theorem witness_HostControlLines :
    (onLine (.label 1) State.reset).popTurn.1 = .host ∧
    (onLine (.label 1) State.reset).host.nextLine = some (.label 1) ∧
    (onLine (.bnz 7 1 3) State.reset).host.nextLine = some (.bnz 7 1 3) ∧
    lookupVar 7 (onLine (.bnz 7 1 3) State.reset).host.vars &&& 1 ≠ 0 ∧
    findLabel 3 (onLine (.bnz 7 1 3) State.reset).host.program = some 1 ∧
    lookupVar 7 (onLine (.bnz 7 2 3) State.reset).host.vars &&& 2 = 0 ∧
    (onLine .halt State.reset).host.nextLine = some .halt := by decide

theorem witness_ResetFromEveryState : (onTurn (.rst false) (withBlock fin2)).popTurn.1 = .rst false := by decide

theorem witness_BusAroundReset :
    ({ onLine (.wr 8 1) State.reset with rstN := false } : State).rstN = false ∧
    ({ onLine (.wr 8 1) State.reset with rstN := false } : State).resetSeen = true ∧
    ({ onLine (.wr 8 1) State.reset with rstN := false } : State).popTurn.1 = .host ∧
    ({ onLine (.wr 8 1) State.reset with rstN := false } : State).host.nextLine = some (.wr 8 1) ∧
    ({ onLine (.rd 0 1) State.reset with rstN := false } : State).host.nextLine = some (.rd 0 1) ∧
    (8 : BitVec 8).extractLsb' 0 2 = 0 ∧ (onTurn (.rst true) State.reset).popTurn.1 = .rst true ∧
    (onTurn (.powerUp fin2) State.reset).popTurn.1 = .powerUp fin2 ∧
    ({ onLine (.wr 8 1) State.reset with resetSeen := false } : State).resetSeen = false ∧
    ({ onLine (.wr 8 1) State.reset with resetSeen := false } : State).host.nextLine = some (.wr 8 1) ∧
    ({ onLine (.rd 0 1) State.reset with resetSeen := false } : State).host.nextLine = some (.rd 0 1) := by decide

theorem reset_device_inv : Device.reset.Inv :=
  ⟨rfl, trivial, fun h => absurd h (by decide), by unfold Device.storageInv; decide⟩

/-- A state of the invariant that steps: a CMD write right after reset. -/
theorem witness_StepKeepsInvariant :
    (onLine (.wr 8 3) State.reset).Inv ∧ step (onLine (.wr 8 3) State.reset) = .next (after (onLine (.wr 8 3) State.reset)) :=
  ⟨⟨fun _ => reset_device_inv, fun h => absurd h (by decide), by unfold varsSorted; decide⟩, step_after (by decide)⟩

/-- INIT changes H, DIGEST, ERR, COUNT and clears DVALID: one step for five statements (HashWrittenOnlyByThree,
DigestWrittenOnlyByCompletion, ErrChangesOnlyAsTold, CountChangesOnlyByFeed, DvalidChangesOnlyAsTold's second clause). -/
def usedBlock : State :=
  onLine (.wr 8 1) (withBlock { Device.reset with hash := zeroHash, count := 5, cache := zeros 5, digest := iv, err := 2, dvalid := true })

theorem witness_changes_by_init :
    step usedBlock = .next (after usedBlock) ∧ (after usedBlock).dev.hash ≠ usedBlock.dev.hash ∧
    (after usedBlock).dev.digest ≠ usedBlock.dev.digest ∧ (after usedBlock).dev.err ≠ usedBlock.dev.err ∧
    (after usedBlock).dev.count ≠ usedBlock.dev.count ∧ usedBlock.dev.dvalid = true ∧
    (after usedBlock).dev.dvalid = false ∧ ∀ d, usedBlock.popTurn.1 ≠ .powerUp d :=
  ⟨step_after (by decide), by decide, by decide, by decide, by decide, by decide, by decide, nofun⟩

/-- DvalidChangesOnlyAsTold's first clause: the completion of a DIGEST with one final block. -/
theorem witness_dvalid_rises :
    step (onTurn .engine (withBlock fin1One)) = .next (after (onTurn .engine (withBlock fin1One))) ∧
    (withBlock fin1One).dev.dvalid = false ∧ (after (onTurn .engine (withBlock fin1One))).dev.dvalid = true ∧
    ∀ d, (onTurn .engine (withBlock fin1One)).popTurn.1 ≠ .powerUp d :=
  ⟨step_after (by decide), by decide, by decide, nofun⟩

/-- A block at rest with DVALID = 1 that meets the invariant. -/
def digestedBlock : Device := { Device.reset with dvalid := true, digest := finalDigest iv [] 0 }

theorem witness_ReadableDigestIsCurrent : digestedBlock.Inv ∧ digestedBlock.digestReadable :=
  ⟨⟨rfl, trivial, fun _ => ⟨rfl, rfl⟩, by unfold Device.storageInv; exact ⟨by decide, .inl (by decide), by decide⟩⟩, rfl, rfl⟩

/-- FeedExtendsMessage, DigestOfHeldMessageIsSha256: a block that holds a message of three bytes. -/
theorem witness_holds : (withBlock (block .idle 3)).dev.Holds [0, 0, 0] := ⟨rfl, rfl, rfl, rfl⟩

/-- DigestIsNonDestructive: a second state at rest with the same H, COUNT and CACHE, and another ERR. -/
theorem witness_DigestIsNonDestructive :
    (withBlock (block .idle 3)).dev.phase = .idle ∧ (withBlock { block .idle 3 with err := 1 }).dev.phase = .idle ∧
    (withBlock { block .idle 3 with err := 1 }).dev.hash = (withBlock (block .idle 3)).dev.hash ∧
    (withBlock { block .idle 3 with err := 1 }).dev.count = (withBlock (block .idle 3)).dev.count ∧
    (withBlock { block .idle 3 with err := 1 }).dev.cache = (withBlock (block .idle 3)).dev.cache := by decide

theorem witness_AnySplitHashesToSha256 : (withBlock (block .idle 3)).dev.phase = .idle := by decide

/-- A FEED write right after reset, and a block whose digest of the empty message is readable. -/
theorem witness_EveryRunHashesItsMessage :
    (onLine (.wr 8 0x302) State.reset).Inv ∧ (onLine (.wr 8 0x302) State.reset).resetSeen = true ∧
    (onLine (.wr 8 0x302) State.reset).dev.Carries [] ∧
    step (onLine (.wr 8 0x302) State.reset) = .next (after (onLine (.wr 8 0x302) State.reset)) ∧
    (∀ d, (onLine (.wr 8 0x302) State.reset).popTurn.1 ≠ .powerUp d) ∧ (onLine (.wr 8 0x302) State.reset).dev.phase = .idle ∧
    digestedBlock.Inv ∧ digestedBlock.Carries [] ∧ digestedBlock.digestReadable :=
  ⟨⟨fun _ => reset_device_inv, fun h => absurd h (by decide), by unfold varsSorted; decide⟩, rfl, ⟨rfl, rfl, rfl⟩,
    step_after (by decide), nofun, rfl, witness_ReadableDigestIsCurrent.1, ⟨rfl, rfl, rfl⟩, witness_ReadableDigestIsCurrent.2⟩

/-- Two hosts' instances; the second steps. -/
theorem witness_InstancesShareNothing :
    System.stepInstance [State.reset, onTurn .host State.reset] 1 = .next [State.reset, after (onTurn .host State.reset)] := by
  simp only [System.stepInstance, List.getElem?_cons_succ, List.getElem?_cons_zero]
  rw [step_after (s := onTurn .host State.reset) (by decide)]
  rfl

theorem witness_FinishedRunStays :
    ({ State.reset with host := { HostAgent.empty with halted := true } } : State).schedule = [] ∧
    ({ State.reset with host := { HostAgent.empty with halted := true } } : State).runOver ∧
    ({ withBlock (block .comp 64) with host := { HostAgent.empty with halted := true } } : State).host.halted = true ∧
    ¬({ withBlock (block .comp 64) with host := { HostAgent.empty with halted := true } } : State).runOver :=
  ⟨rfl, ⟨rfl, rfl⟩, rfl, fun h => absurd h.2 (by decide)⟩

/-- Five bytes make two chunks, the last of one byte. -/
theorem witness_FeedProcedureCarriesMessage :
    (feedChunks [1, 2, 3, 4, 5])[0]? = some (3, 0x01020304) ∧ (feedChunks [1, 2, 3, 4, 5])[1]? = some (0, 0x05000000) := by decide

theorem witness_HexDigestForm : hexDigest iv = hexDigest iv := rfl

end Sys2Proof.Tests
end

section
/-! SUPPORT. Facts that the proofs below share: the block's own compression, the padded tail, and what each engine step
writes. -/

namespace Sys2Proof.Machine

/-! ### A compression in the block's own registers -/

/-- RND reads n after n < 64 rounds of a compression (R45). -/
theorem Device.runRounds_loadRounds_rnd {n : Nat} (hn : n < 64) (S : HashValue) (block : List Byte) (d : Device) :
    (Device.runRounds n (d.loadRounds S block)).rnd.toNat = n := by
  rw [Device.runRounds_rnd]
  simp [Device.loadRounds, Nat.mod_eq_of_lt hn]

/-- After n rounds of a compression a..h hold the fold of `compress` over its first n rounds (R139, R140). -/
theorem Device.runRounds_loadRounds_work {n : Nat} (hn : n ≤ 64) (S : HashValue) (block : List Byte) (d : Device) :
    (Device.runRounds n (d.loadRounds S block)).work =
      (List.range n).foldl (fun r i => round (kWord i) ((schedule block).getD i 0) r) (loadWorking S) := by
  rw [Device.runRounds_work n _ (by simpa [Device.loadRounds] using hn), List.range_eq_range']
  rfl

/-- The final addition after a compression in the registers gives `compress` (R142, R143). -/
@[simp] theorem Device.addBack_compressing (S : HashValue) (block : List Byte) (d : Device) :
    addBack S (d.compressing S block).work = compress S block := by
  rw [Device.compressing, Device.runRounds_loadRounds_work le_rfl]
  rfl

/-- A compression in the registers, as an update of the block: a..h hold what the final addition turns into `compress`, W the
block's schedule, and nothing else is written (R144). -/
theorem Device.compressing_eq (S : HashValue) (block : List Byte) (d : Device) :
    ∃ (w : Working) (r : BitVec 6), addBack S w = compress S block ∧
      d.compressing S block = { d with work := w, sched := schedule block, rnd := r } :=
  ⟨_, _, d.addBack_compressing S block, d.compressing_frame S block⟩

/-! ### Schedule and padding -/

/-- The schedule of a 64-byte block has 64 words (R124). -/
theorem schedule_length {block : List Byte} (h : block.length = 64) : (schedule block).length = 64 := by
  rw [schedule, extendSchedule_length, blockWords_length (q := 16) h]

/-- The padded tail is one block, or two from 56 cached bytes on (R116, R117). -/
theorem append_pad_length {cache : List Byte} {count : ByteCount} (h : cache.length = count.toNat % 64) :
    (cache ++ pad count).length = finalLength cache := by
  rw [List.length_append, pad_length, padZeros, finalLength, ← h]
  have hlt : cache.length < 64 := h ▸ Nat.mod_lt _ (by decide)
  split_ifs <;> omega

theorem finalLength_eq_or (cache : List Byte) : finalLength cache = 64 ∨ finalLength cache = 128 := by
  unfold finalLength; split <;> simp

/-- The digest of a tail padded to one block is one compression (R162). -/
theorem finalDigest_of_one_block {cache : List Byte} {count : ByteCount} (S : HashValue)
    (h : (cache ++ pad count).length = 64) :
    finalDigest S cache count = compress S ((cache ++ pad count).take 64) := by
  simp only [finalDigest, h, Nat.reduceDiv, hashBlocks]

/-- The digest of a tail padded to two blocks is two compressions (R162, R163). -/
theorem finalDigest_of_two_blocks {cache : List Byte} {count : ByteCount} (S : HashValue)
    (h : (cache ++ pad count).length = 128) :
    finalDigest S cache count =
      compress (compress S ((cache ++ pad count).take 64)) (((cache ++ pad count).drop 64).take 64) := by
  simp only [finalDigest, h, Nat.reduceDiv, hashBlocks]

/-! ### The engine's steps -/

/-- What the engine's step makes of the block d (R160 to R163), said once. In each case but the first a..h and RND are left as
the rounds left them, and W is the schedule of the block compressed. -/
inductive Device.EngineCases (d e : Device) : Prop where
  /-- In IDLE there is no step. -/
  | idle (phase : d.phase = .idle) (dev : e = d)
  /-- In COMP: the first 64 cached bytes are folded into H (R161). -/
  | feed (w : Working) (r : BitVec 6) (phase : d.phase = .comp)
      (dev : e = { d with
        hash := compress d.hash (d.cache.take 64), cache := d.cache.drop 64, phase := .idle
        work := w, sched := schedule (d.cache.take 64), rnd := r })
  /-- In FIN1 with two final blocks: the first is compressed into HF (R162). -/
  | firstFinal (w : Working) (r : BitVec 6) (phase : d.phase = .fin1) (two : d.fb.length = 128)
      (dev : e = { d with
        hf := compress d.hf (d.fb.take 64), phase := .fin2
        work := w, sched := schedule (d.fb.take 64), rnd := r })
  /-- In FIN1 with one final block, and in FIN2: the last final block is compressed into HF, and the DIGEST completes (R162,
  R163). -/
  | lastFinal (w : Working) (r : BitVec 6) (block : List Byte)
      (due : (d.phase = .fin1 ∧ d.fb.length ≠ 128 ∧ block = d.fb.take 64) ∨
        (d.phase = .fin2 ∧ block = (d.fb.drop 64).take 64))
      (dev : e = { d with
        hf := compress d.hf block, digest := compress d.hf block, dvalid := true, phase := .idle
        work := w, sched := schedule block, rnd := r })

section
variable (d : Device)

theorem Device.stepComp_cases (hp : d.phase = .comp) : d.EngineCases d.stepComp := by
  obtain ⟨w, r, hw, hd⟩ := d.compressing_eq d.hash (d.cache.take 64)
  exact .feed w r hp (by rw [Device.stepComp, hd, ← hw])

theorem Device.stepFin1_cases (hp : d.phase = .fin1) : d.EngineCases d.stepFin1 := by
  obtain ⟨w, r, hw, hd⟩ := d.compressing_eq d.hf (d.fb.take 64)
  by_cases two : d.fb.length = 128
  · exact .firstFinal w r hp two (by rw [Device.stepFin1, hd, if_pos two, ← hw])
  · exact .lastFinal w r _ (.inl ⟨hp, two, rfl⟩) (by rw [Device.stepFin1, hd, if_neg two, Device.publish, ← hw])

theorem Device.stepFin2_cases (hp : d.phase = .fin2) : d.EngineCases d.stepFin2 := by
  obtain ⟨w, r, hw, hd⟩ := d.compressing_eq d.hf ((d.fb.drop 64).take 64)
  exact .lastFinal w r _ (.inr ⟨hp, rfl⟩) (by rw [Device.stepFin2, hd, Device.publish, ← hw])

/-- Inversion of the engine's step. -/
theorem Device.engineStep_cases : d.EngineCases d.engineStep := by
  cases hp : d.phase with
  | idle => exact .idle hp (Device.engineStep_of_idle hp)
  | comp => rw [Device.engineStep_of_comp hp]; exact d.stepComp_cases hp
  | fin1 => rw [Device.engineStep_of_fin1 hp]; exact d.stepFin1_cases hp
  | fin2 => rw [Device.engineStep_of_fin2 hp]; exact d.stepFin2_cases hp

/-- The engine never writes COUNT (R209). -/
@[simp] theorem Device.engineStep_count : d.engineStep.count = d.count := by
  cases d.engineStep_cases with
  | idle _ dev | feed _ _ _ dev | firstFinal _ _ _ _ dev | lastFinal _ _ _ _ dev => rw [dev]

/-- The engine never writes DATA_IN (R34). -/
@[simp] theorem Device.engineStep_dataIn : d.engineStep.dataIn = d.dataIn := by
  cases d.engineStep_cases with
  | idle _ dev | feed _ _ _ dev | firstFinal _ _ _ _ dev | lastFinal _ _ _ _ dev => rw [dev]

end

end Sys2Proof.Machine
end

section
/-! PROOF. The registers run `compress` (O27). -/

namespace Sys2Proof.Machine

/-- Settles O27: the rounds are `compress`'s fold, and a compression's frame is `Device.compressing_frame`. -/
theorem roundRegistersComputeCompress : Obligations.RoundRegistersComputeCompress := by
  intro S block d
  exact ⟨fun n hn => ⟨Device.runRounds_loadRounds_rnd hn S block d, Device.runRounds_loadRounds_work hn.le S block d⟩,
    Device.addBack_compressing S block d, Device.compressing_frame S block d⟩

end Sys2Proof.Machine
end

section
/-! PROOF. The invariant: reset has it (O43), each thing that a step can do to the block keeps it, and so every step does (O44). -/

namespace Sys2Proof.Machine

/-! ### What the invariant says in each phase -/

section
variable {d : Device}

/-- R26, outside COMP. -/
theorem Device.Inv.cache_length (h : d.Inv) (hp : d.phase ≠ .comp) : d.cache.length = d.count.toNat % 64 := by
  have := h.cache
  cases hph : d.phase <;> simp_all [Device.cacheInv]

/-- In COMP a whole block is cached, and the bytes beyond it are COUNT modulo 64. -/
theorem Device.Inv.cache_of_comp (h : d.Inv) (hp : d.phase = .comp) :
    64 ≤ d.cache.length ∧ d.cache.length - 64 = d.count.toNat % 64 := by
  have hc : 64 ≤ d.cache.length ∧ d.cache.length ≤ 67 ∧ d.cache.length - 64 = d.count.toNat % 64 := by
    simpa [Device.cacheInv, hp] using h.cache
  exact ⟨hc.1, hc.2.2⟩

theorem Device.Inv.final_of_fin1 (h : d.Inv) (hp : d.phase = .fin1) : d.hf = d.hash ∧ d.fb = d.cache ++ pad d.count := by
  simpa [Device.finalInv, hp] using h.final

theorem Device.Inv.final_of_fin2 (h : d.Inv) (hp : d.phase = .fin2) :
    d.hf = compress d.hash (d.fb.take 64) ∧ d.fb = d.cache ++ pad d.count ∧ d.fb.length = 128 := by
  simpa [Device.finalInv, hp] using h.final

/-- DVALID is 0 while the engine works (R30). -/
theorem Device.Inv.dvalid_of_busy (h : d.Inv) (hp : d.phase ≠ .idle) : d.dvalid = false :=
  Bool.eq_false_iff.2 fun hv => hp (h.digest hv).1

end

/-! ### Reset -/

/-- The block has its stated reset values after reset (R48, R202). -/
theorem Device.reset_atResetValues : Device.reset.AtResetValues := ⟨rfl, rfl, rfl, rfl, rfl, rfl, rfl, rfl⟩

theorem Device.reset_inv : Device.reset.Inv where
  cache := rfl
  final := trivial
  digest h := by cases h
  storage := ⟨by decide, .inl (List.length_replicate ..), List.length_replicate ..⟩

/-- Settles O43: after reset the block meets its invariant, the pin is released and no host variable is assigned. -/
theorem invariantAtReset : Obligations.InvariantAtReset where
  device _ := Device.reset_inv
  held h := by cases h
  vars := List.Pairwise.nil

/-! ### Host writes -/

/-- The invariant does not speak of DATA_IN. -/
theorem Device.Inv.setDataIn {d : Device} (h : d.Inv) (v : Word) : Device.Inv { d with dataIn := v } :=
  ⟨h.cache, h.final, h.digest, h.storage⟩

theorem ErrCode.code_le (c : ErrCode) : c.code.toNat ≤ 4 := by cases c <;> decide

/-- Recording an error leaves a code that is produced (R182, R183). -/
theorem Device.raise_err_le {d : Device} (h : d.err.toNat ≤ 4) (c : ErrCode) : (d.raise c).err.toNat ≤ 4 := by
  rw [Device.raise_err]; split
  · exact c.code_le
  · exact h

theorem Device.Inv.raise {d : Device} (h : d.Inv) (c : ErrCode) : (d.raise c).Inv := by
  have herr := Device.raise_err_le h.storage.1 c
  rw [Device.raise_eq] at herr ⊢
  exact ⟨h.cache, h.final, h.digest, herr, h.storage.2⟩

/-! ### Commands -/

section
variable {d : Device}

/-- R26 over a FEED: the bytes cached, beyond a block that fills, are the new COUNT modulo 64. -/
theorem Device.cacheInv_acceptFeed (len : BitVec 2) (hp : d.phase = .idle) (h : d.cache.length = d.count.toNat % 64) :
    (Device.acceptFeed len d).cacheInv := by
  have hn : len.toNat < 4 := len.isLt
  have hlen : (d.cache ++ feedBytes len d.dataIn).length = d.cache.length + (len.toNat + 1) := by
    rw [List.length_append, feedBytes_length]
  have hcount : (d.count + BitVec.ofNat 64 (feedCount len)).toNat % 64 = (d.count.toNat + (len.toNat + 1)) % 64 := by
    rw [BitVec.toNat_add, BitVec.toNat_ofNat, feedCount]; omega
  by_cases hfull : 64 ≤ d.cache.length + (len.toNat + 1)
  · simp only [Device.cacheInv, Device.acceptFeed_phase, Device.acceptFeed_cache, Device.acceptFeed_count, hlen, hcount,
      if_pos hfull]
    omega
  · simp only [Device.cacheInv, Device.acceptFeed_phase, Device.acceptFeed_cache, Device.acceptFeed_count, hlen, hcount,
      if_neg hfull, hp]
    omega

theorem Device.Inv.acceptFeed (h : d.Inv) (hp : d.phase = .idle) (len : BitVec 2) : (Device.acceptFeed len d).Inv where
  cache := Device.cacheInv_acceptFeed len hp (h.cache_length (by simp [hp]))
  final := by
    by_cases hfull : 64 ≤ (d.cache ++ feedBytes len d.dataIn).length
    · simp only [Device.finalInv, Device.acceptFeed_phase, if_pos hfull]
    · simp only [Device.finalInv, Device.acceptFeed_phase, if_neg hfull, hp]
  digest hv := by simp at hv
  storage := by
    obtain ⟨herr, hfb, hsched⟩ := h.storage
    refine ⟨?_, by simpa using hfb, by simpa using hsched⟩
    rw [Device.acceptFeed_err]; split
    · exact Device.raise_err_le herr _
    · exact herr

theorem Device.Inv.acceptInit (h : d.Inv) (hp : d.phase = .idle) : d.acceptInit.Inv where
  cache := by simp [Device.cacheInv, hp]
  final := by simp [Device.finalInv, hp]
  digest hv := by simp at hv
  storage := ⟨by simp, h.storage.2⟩

/-- DIGEST makes FB one or two blocks (R44, R157). -/
theorem Device.Inv.acceptDigest (h : d.Inv) (hp : d.phase = .idle) : d.acceptDigest.Inv where
  cache := h.cache_length (by simp [hp])
  final := ⟨rfl, rfl⟩
  digest hv := by simp at hv
  storage := by
    obtain ⟨herr, -, hsched⟩ := h.storage
    refine ⟨herr, ?_, hsched⟩
    rw [Device.acceptDigest_fb, append_pad_length (h.cache_length (by simp [hp]))]
    exact finalLength_eq_or _

theorem Device.Inv.acceptClrerr (h : d.Inv) : d.acceptClrerr.Inv :=
  ⟨h.cache, h.final, h.digest, Nat.zero_le 4, h.storage.2⟩

/-- An accepted command keeps the invariant. -/
theorem Device.Inv.acceptOf (h : d.Inv) (hp : d.phase = .idle) (i : Instr) : (acceptOf i d).Inv :=
  match i with
  | .nop => h
  | .init => h.acceptInit hp
  | .feed len => h.acceptFeed hp len
  | .digest => h.acceptDigest hp
  | .clrerr => h.acceptClrerr

/-! ### The engine -/

/-- The last final block has 64 bytes, and compressing it into HF gives the digest of the state as it is (R157, R162, R163). -/
theorem Device.Inv.lastFinal_block (h : d.Inv) {block : List Byte}
    (due : (d.phase = .fin1 ∧ d.fb.length ≠ 128 ∧ block = d.fb.take 64) ∨
      (d.phase = .fin2 ∧ block = (d.fb.drop 64).take 64)) :
    block.length = 64 ∧ compress d.hf block = finalDigest d.hash d.cache d.count := by
  obtain ⟨-, hfb, -⟩ := h.storage
  rcases due with ⟨hp, hone, rfl⟩ | ⟨hp, rfl⟩
  · obtain ⟨hhf, htail⟩ := h.final_of_fin1 hp
    have hlen := hfb.resolve_right hone
    exact ⟨by simp [hlen], by rw [finalDigest_of_one_block _ (htail ▸ hlen), ← htail, hhf]⟩
  · obtain ⟨hhf, htail, hlen⟩ := h.final_of_fin2 hp
    exact ⟨by simp [hlen], by rw [finalDigest_of_two_blocks _ (htail ▸ hlen), ← htail, hhf]⟩

/-- The engine's step keeps the invariant: a feed's compression leaves the bytes beyond its block (R26), the first final block's leaves
HF as R162 says, and the last one's leaves the digest of the state as it is (R30). -/
theorem Device.Inv.engineStep (h : d.Inv) : d.engineStep.Inv := by
  obtain ⟨herr, hfb, hsched⟩ := h.storage
  cases d.engineStep_cases with
  | idle _ dev => rwa [dev]
  | feed w r hp dev =>
    obtain ⟨hmin, hcount⟩ := h.cache_of_comp hp
    have hdv := h.dvalid_of_busy (by simp [hp])
    have hblock : (d.cache.take 64).length = 64 := by simpa using hmin
    rw [dev]
    exact ⟨by simpa [Device.cacheInv] using hcount, trivial, by simp [Device.digestInv, hdv],
      herr, hfb, schedule_length hblock⟩
  | firstFinal w r hp two dev =>
    have hcache := h.cache_length (by simp [hp])
    obtain ⟨hhf, htail⟩ := h.final_of_fin1 hp
    have hdv := h.dvalid_of_busy (by simp [hp])
    rw [dev]
    exact ⟨hcache, ⟨by rw [hhf], htail, two⟩, by simp [Device.digestInv, hdv],
      herr, hfb, schedule_length (by simp [two])⟩
  | lastFinal w r block due dev =>
    have hp : d.phase ≠ .comp := by rcases due with ⟨hp, -⟩ | ⟨hp, -⟩ <;> simp [hp]
    have hcache := h.cache_length hp
    obtain ⟨hblock, hdigest⟩ := h.lastFinal_block due
    rw [dev]
    exact ⟨hcache, trivial, fun _ => ⟨rfl, hdigest⟩, herr, hfb, schedule_length hblock⟩

end

/-! ### Steps -/

/-- The block's invariant over a step: a block that has been reset keeps it, whatever the step does. -/
theorem BlockStep.device_inv {s t : State} (h : BlockStep s t) (hs : s.resetSeen = true → s.dev.Inv)
    (hr : t.resetSeen = true) : t.dev.Inv := by
  cases h with
  | quiet dev seen _ => exact dev ▸ hs (seen ▸ hr)
  | dataIn v _ _ seen _ dev => exact dev ▸ (hs (seen ▸ hr)).setDataIn v
  | busy _ _ seen _ dev => exact dev ▸ (hs (seen ▸ hr)).raise _
  | rejected _ r _ _ seen _ _ _ dev => exact dev ▸ (hs (seen ▸ hr)).raise _
  | accepted _ i _ _ seen phase _ _ dev => exact dev ▸ (hs (seen ▸ hr)).acceptOf phase i
  | engine _ _ seen dev => exact dev ▸ (hs (seen ▸ hr)).engineStep
  | reset _ _ dev => exact dev ▸ Device.reset_inv
  | powerUp _ _ _ seen _ => simp [seen] at hr

/-- While reset is held after a step the block has its reset values: the step reset it, or left it so (R201). -/
theorem BlockStep.held {s t : State} (h : BlockStep s t)
    (hs : s.rstN = false → s.dev.AtResetValues ∧ s.resetSeen = true) (hn : t.rstN = false) :
    t.dev.AtResetValues ∧ t.resetSeen = true := by
  cases h with
  | quiet dev seen pin =>
    rw [dev, seen]
    exact hs (by simpa [hn] using pin.symm)
  | reset _ seen dev => exact ⟨dev ▸ Device.reset_atResetValues, seen⟩
  | dataIn _ _ pin _ _ _ => simp [hn] at pin
  | busy _ pin _ _ _ => simp [hn] at pin
  | rejected _ _ _ pin _ _ _ _ _ => simp [hn] at pin
  | accepted _ _ _ pin _ _ _ _ _ => simp [hn] at pin
  | engine _ pin _ _ => simp [hn] at pin
  | powerUp _ _ pin _ _ => simp [hn] at pin

/-- Settles O44, by the cases of a step. -/
theorem stepKeepsInvariant : Obligations.StepKeepsInvariant := by
  intro s t hs hstep
  obtain ⟨hblock, hvars⟩ := step_cases hstep
  exact ⟨hblock.device_inv hs.device, hblock.held hs.held, hvars hs.vars⟩

end Sys2Proof.Machine
end

section
/-! PROOF. The register window: what a read of each index returns (O30, O31, O50), which reads see which registers, and the frame of
the commands (O14). -/

namespace Sys2Proof.Machine

/-! ### Reads, index by index -/

section
variable (d : Device)

@[simp] theorem Device.busRead_id : d.busRead 0 = .ok 0x53323536 := rfl

@[simp] theorem Device.busRead_status : d.busRead 1 = d.readStatus := rfl

@[simp] theorem Device.busRead_cmd : d.busRead 2 = .ok 0 := rfl

@[simp] theorem Device.busRead_dataIn : d.busRead 3 = .ok d.dataIn := rfl

@[simp] theorem Device.busRead_countLo : d.busRead 4 = .ok (d.count.extractLsb' 0 32) := rfl

@[simp] theorem Device.busRead_countHi : d.busRead 5 = .ok (d.count.extractLsb' 32 32) := rfl

@[simp] theorem Device.busRead_bufLen : d.busRead 6 = .ok ((BitVec.ofNat 7 d.cache.length).setWidth 32) := rfl

theorem regAt_digest (j : Fin 8) : regAt (BitVec.ofNat 6 (8 + j.val)) = some (.digest j) := by
  revert j; decide

@[simp] theorem Device.busRead_digest (j : Fin 8) : d.busRead (BitVec.ofNat 6 (8 + j.val)) = .ok d.digest[j] := by
  rw [Device.busRead, regAt_digest]; rfl

/-- The words from 16 on are reserved, and so is word 7 (R62, R65). -/
theorem regAt_reserved {k : BitVec 6} : k = 7 ∨ 16 ≤ k.toNat → regAt k = none := by
  revert k; decide

theorem Device.busRead_reserved {k : BitVec 6} (hk : k = 7 ∨ 16 ≤ k.toNat) : d.busRead k = .ok 0 := by
  rw [Device.busRead, regAt_reserved hk]

end

/-- A 64-bit value is its high word and its low word (R35). -/
theorem toNat_eq_hi_lo (c : BitVec 64) :
    c.toNat = (c.extractLsb' 32 32).toNat * 2 ^ 32 + (c.extractLsb' 0 32).toNat := by
  simp only [BitVec.extractLsb'_toNat, Nat.shiftRight_eq_div_pow]
  omega

/-- Settles O30, read by read. -/
theorem windowReads : Obligations.WindowReads := by
  intro d
  refine ⟨d.busRead_id, d.busRead_cmd, d.busRead_dataIn,
    ⟨_, _, d.busRead_countLo, d.busRead_countHi, toNat_eq_hi_lo d.count⟩, fun hlen => ⟨_, d.busRead_bufLen, ?_⟩,
    d.busRead_digest, d.busRead_reserved (.inl rfl), fun k hk => d.busRead_reserved (.inr hk)⟩
  simp only [BitVec.toNat_setWidth, BitVec.toNat_ofNat]
  omega

/-- Settles O50: the reads return DIGEST0..7, which the invariant makes the digest of the state where DVALID = 1. -/
theorem readableDigestIsCurrent : Obligations.ReadableDigestIsCurrent := by
  intro d hinv hread j
  obtain ⟨-, hcurrent⟩ := hinv.digest hread.2
  rw [d.busRead_digest, hcurrent]

/-! ### STATUS -/

/-- The word that `Device.statusWord` lays out, field by field (R28). -/
theorem status_fields (err : BitVec 4) (phase : BitVec 2) (dvalid busy : Bool) :
    let w : Word := (0 : BitVec 20) ++ err ++ (0 : BitVec 4) ++ phase ++ BitVec.ofBool dvalid ++ BitVec.ofBool busy
    w.getLsbD 0 = busy ∧ w.getLsbD 1 = dvalid ∧ w.extractLsb' 2 2 = phase ∧ w.extractLsb' 4 4 = 0 ∧
      w.extractLsb' 8 4 = err ∧ w.extractLsb' 12 20 = 0 := by
  revert err phase dvalid busy; decide

theorem Device.readStatus_of_le {d : Device} (h : d.err.toNat ≤ 4) : d.readStatus = .ok d.statusWord := by
  rw [Device.readStatus, if_neg (by omega)]

/-- Settles O31: the fields of `Device.statusWord`, of which BUSY is `PHASE != 0` by definition (R29). -/
theorem statusFields : Obligations.StatusFields := by
  intro d herr
  obtain ⟨hbusy, hdvalid, hphase, h4, herr', h12⟩ := status_fields d.err d.phase.code d.dvalid d.busy
  refine ⟨d.statusWord, by rw [d.busRead_status, Device.readStatus_of_le herr], ?_, hdvalid, ?_, h4, herr', h12⟩
  · rw [Device.statusWord, hbusy, hphase, Device.busy, bne_iff_ne]
  · rw [Device.statusWord, hphase]
    cases d.phase <;> rfl

/-! ### Which registers a read sees -/

/-- A named register stands at the word index of its offset (R62, R63). -/
theorem index_of_regAt {k : BitVec 6} {r : Reg} (h : regAt k = some r) : k = r.offset.extractLsb' 2 6 := by
  have hall : ∀ k : BitVec 6, ∀ r ∈ regAt k, k = r.offset.extractLsb' 2 6 := by decide
  exact hall k r h

theorem digest_index_bounds (j : Fin 8) : 8 ≤ ((Reg.digest j).offset.extractLsb' 2 6).toNat ∧
    ((Reg.digest j).offset.extractLsb' 2 6).toNat < 16 := by
  revert j; decide

/-- STATUS aside, a read sees DATA_IN, COUNT (indexes 4 and 5), the length of CACHE (6) and DIGEST0..7 (8 to 15), and no other
register. -/
theorem Device.busRead_congr {d e : Device} {k : BitVec 6} (hstatus : k ≠ 1) (hdataIn : e.dataIn = d.dataIn)
    (hcount : k = 4 ∨ k = 5 → e.count = d.count) (hcache : k = 6 → e.cache = d.cache)
    (hdigest : 8 ≤ k.toNat ∧ k.toNat < 16 → e.digest = d.digest) : e.busRead k = d.busRead k := by
  unfold Device.busRead
  cases hr : regAt k with
  | none => rfl
  | some r =>
    have hk := index_of_regAt hr
    cases r with
    | id | cmd => rfl
    | status => exact absurd hk hstatus
    | dataIn => exact congrArg Except.ok hdataIn
    | countLo => simp only [Device.readReg, hcount (.inl hk)]
    | countHi => simp only [Device.readReg, hcount (.inr hk)]
    | bufLen => simp only [Device.readReg, hcache hk]
    | digest j => simp only [Device.readReg, hdigest (hk ▸ digest_index_bounds j)]

/-! ### The frame of the commands -/

section
variable (i : Instr) (d : Device)

/-- No command writes DATA_IN, a..h, W or RND (R152). -/
@[simp] theorem acceptOf_dataIn : (acceptOf i d).dataIn = d.dataIn := by
  cases i with
  | feed len => exact Device.acceptFeed_dataIn len d
  | nop | init | digest | clrerr => rfl

@[simp] theorem acceptOf_work : (acceptOf i d).work = d.work := by
  cases i with
  | feed len => exact Device.acceptFeed_work len d
  | nop | init | digest | clrerr => rfl

@[simp] theorem acceptOf_sched : (acceptOf i d).sched = d.sched := by
  cases i with
  | feed len => exact Device.acceptFeed_sched len d
  | nop | init | digest | clrerr => rfl

@[simp] theorem acceptOf_rnd : (acceptOf i d).rnd = d.rnd := by
  cases i with
  | feed len => exact Device.acceptFeed_rnd len d
  | nop | init | digest | clrerr => rfl

variable {k : BitVec 6}

/-- A refused command is seen in STATUS alone. -/
theorem Device.busRead_raise (c : ErrCode) (hk : k ≠ 1) : (d.raise c).busRead k = d.busRead k :=
  Device.busRead_congr hk (by simp) (by simp) (by simp) (by simp)

/-- A clear of ERR is seen in STATUS alone. -/
theorem Device.busRead_clearErr (hk : k ≠ 1) : d.clearErr.busRead k = d.busRead k :=
  Device.busRead_congr hk rfl (fun _ => rfl) (fun _ => rfl) (fun _ => rfl)

/-- DIGEST's acceptance is seen in STATUS alone. -/
theorem Device.busRead_acceptDigest (hk : k ≠ 1) : d.acceptDigest.busRead k = d.busRead k :=
  Device.busRead_congr hk rfl (fun _ => rfl) (fun _ => rfl) (fun _ => rfl)

/-- FEED is seen in STATUS, COUNT_LO, COUNT_HI and BUF_LEN. -/
theorem Device.busRead_acceptFeed (len : BitVec 2) (hk : k ≠ 1 ∧ k ≠ 4 ∧ k ≠ 5 ∧ k ≠ 6) :
    (Device.acceptFeed len d).busRead k = d.busRead k :=
  Device.busRead_congr hk.1 (by simp) (fun h => (h.elim hk.2.1 hk.2.2.1).elim) (fun h => (hk.2.2.2 h).elim) (by simp)

/-- INIT is seen in STATUS, COUNT_LO, COUNT_HI, BUF_LEN and DIGEST0..7. -/
theorem Device.busRead_acceptInit (hk : k.toNat = 0 ∨ k.toNat = 2 ∨ k.toNat = 3 ∨ k.toNat = 7 ∨ 16 ≤ k.toNat) :
    d.acceptInit.busRead k = d.busRead k :=
  Device.busRead_congr (by rintro rfl; simp at hk) rfl (by rintro (rfl | rfl) <;> simp at hk) (by rintro rfl; simp at hk)
    (by omega)

end

/-- Settles O14: a command is accepted at rest, with the frame of its acceptance, or only raises BUSY. -/
theorem commandsFrame : Obligations.CommandsFrame := by
  intro i s t h
  rcases exec_cases h with ⟨hp, rfl⟩ | ⟨hp, rfl⟩
  · refine ⟨⟨rfl, rfl, rfl, rfl⟩, by simp, ?_⟩
    cases i with
    | nop => simp [acceptOf, Device.acceptNop]
    | init => simpa [acceptOf, hp] using fun k => s.dev.busRead_acceptInit
    | feed len => simpa [acceptOf, hp] using fun k => s.dev.busRead_acceptFeed len
    | digest => simpa [acceptOf, hp] using fun k => s.dev.busRead_acceptDigest
    | clrerr => simpa [acceptOf, Device.acceptClrerr, hp] using fun k => s.dev.busRead_clearErr
  · have hread (k : BitVec 6) (hk : k ≠ 1) := s.dev.busRead_raise .busy hk
    exact ⟨⟨rfl, rfl, rfl, rfl⟩, by simp, by simp, by simp, by simp, by simp, fun _ h => absurd h hp,
      fun _ h => absurd h hp, fun _ k => hread k, fun _ k hk => hread k hk.1,
      fun _ k hk => hread k (by rintro rfl; simp at hk)⟩

end Sys2Proof.Machine
end

section
/-! PROOF. A command word is the encoding of the command it decodes to, and what a step whose host line is a write does (O36, O37). -/

namespace Sys2Proof

/-- A word is its three fields (R92). -/
theorem fields_append (v : Word) : rsvField v ++ lenField v ++ opcodeField v = v := by
  rw [rsvField, lenField, opcodeField, BitVec.extractLsb'_append_extractLsb'_eq_extractLsb' (by decide),
    BitVec.extractLsb'_append_extractLsb'_eq_extractLsb' (by decide), BitVec.extractLsb'_eq_self]

/-- A word that decodes is the word of its command (R95). -/
theorem encode_of_decode {v : Word} {i : Instr} (h : decode v = .ok i) : encode i = v := by
  rw [← fields_append v]
  obtain ⟨hr, ⟨rfl, ho, hl⟩ | ⟨rfl, ho, hl⟩ | ⟨rfl, ho⟩ | ⟨rfl, ho, hl⟩ | ⟨rfl, ho, hl⟩⟩ := decode_ok_cases h
  case inr.inr.inl => rw [hr, ho]; rfl
  all_goals rw [hr, ho, hl]; rfl

end Sys2Proof

namespace Sys2Proof.Machine

/-- The state in which a host line runs: the turn taken, and the host at its next line. -/
theorem State.popTurn_advance (s : State) :
    s.popTurn.2.setHost s.host.advance =
      { s with schedule := s.popTurn.2.schedule, host := { s.host with pc := s.host.pc + 1 } } := by
  unfold State.popTurn; split <;> rfl

/-- Settles O36: the line is a CMD write, and a CMD write of a word that decodes is its command. -/
theorem stepRunsDecodedCommand : Obligations.StepRunsDecodedCommand := by
  intro s v i hrst hseen hturn hline hdecode
  rw [step_of_host_line hturn hline, ← State.popTurn_advance, ← State.writeCmd_of_decode hdecode]
  exact State.hostWrite_cmd v (by simpa using hrst) (by simpa using hseen)

/-- The line placed is the line that the host takes next. -/
theorem HostAgent.withCmdWrite_nextLine (v : Word) (h : HostAgent) :
    (h.withCmdWrite v).nextLine = some (.wr 0x08 v) := by
  have hlen : min h.pc h.program.length = (h.program.take h.pc).length := by simp
  simp only [HostAgent.nextLine, HostAgent.withCmdWrite, hlen]
  simp

/-- Settles O37: the placed state's turn is the host's, and its line the CMD write. -/
theorem placedWordIsPresentedNext : Obligations.PlacedWordIsPresentedNext := by
  intro s w hrst hseen hw
  refine ⟨(s.host.withCmdWrite (BitVec.ofNat 32 w)).advance, rfl, ?_⟩
  have hline : (s.withFetchWord 32 w).host.nextLine = some (.wr 0x08 (BitVec.ofNat 32 w)) := by
    rw [State.withFetchWord, Nat.mod_eq_of_lt hw]
    exact HostAgent.withCmdWrite_nextLine _ _
  rw [step_of_host_line rfl hline]
  simp only [State.withFetchWord, Nat.mod_eq_of_lt hw]
  exact State.hostWrite_cmd _ hrst hseen

end Sys2Proof.Machine
end

section
/-! PROOF. What writes each register of the live state over a step: DATA_IN (O35), H (O45), DVALID (O46), DIGEST0..7 (O47) and COUNT
(O49). -/

namespace Sys2Proof.Machine

/-! ### DATA_IN -/

/-- A step other than power-up changes DATA_IN by a host write of the new value, or by reset. -/
theorem step_dataIn_cases {s t : State} (h : step s = .next t) (hne : t.dev.dataIn ≠ s.dev.dataIn)
    (hp : ∀ d : Device, s.popTurn.1 ≠ .powerUp d) :
    (s.popTurn.1 = .host ∧ s.rstN = true ∧ s.host.nextLine = some (.wr 0x0C t.dev.dataIn)) ∨
      (t.rstN = false ∧ t.dev.dataIn = 0) := by
  cases (step_cases h).1 with
  | dataIn v turn pin _ line dev => exact .inl ⟨turn, pin.1, by rw [dev]; exact line⟩
  | reset pin _ dev => exact .inr ⟨pin, by rw [dev]; rfl⟩
  | powerUp d turn _ _ _ => exact absurd turn (hp d)
  | quiet dev _ _ | busy _ _ _ _ dev | rejected _ _ _ _ _ _ _ _ dev | accepted _ _ _ _ _ _ _ _ dev
  | engine _ _ _ dev => exact absurd (by simp [dev]) hne

/-- Settles O35: the write, its step, the commands' frame, and the inversion of a step. -/
theorem dataInHoldsLastWrite : Obligations.DataInHoldsLastWrite := by
  refine ⟨fun v s => ⟨s.setDev { s.dev with dataIn := v }, rfl, rfl, rfl, rfl, fun i u hu => ?_⟩, ?_,
    fun s t => step_dataIn_cases⟩
  · obtain ⟨-, ⟨hdataIn, -⟩, -⟩ := commandsFrame i _ u hu
    rw [u.dev.busRead_dataIn, hdataIn]
    rfl
  · intro s v hrst hseen hturn hline
    rw [step_of_host_line hturn hline]
    refine (State.hostWrite_dataIn v (by simpa using hrst) (by simpa using hseen)).trans ?_
    rw [State.writeDataIn, State.popTurn_advance]
    rfl

/-! ### H, COUNT, DVALID and DIGEST0..7 -/

/-- A step other than power-up leaves H, COUNT, DVALID and DIGEST0..7 alone, or accepts a command, or is the engine's, or resets
the block. -/
theorem step_live_cases {s t : State} (h : step s = .next t) (hp : ∀ d : Device, s.popTurn.1 ≠ .powerUp d) :
    (t.dev.hash = s.dev.hash ∧ t.dev.count = s.dev.count ∧ t.dev.dvalid = s.dev.dvalid ∧ t.dev.digest = s.dev.digest) ∨
    (s.popTurn.1 = .host ∧ s.dev.phase = .idle ∧ ∃ (v : Word) (i : Instr),
      s.host.nextLine = some (.wr 0x08 v) ∧ decode v = .ok i ∧ t.dev = acceptOf i s.dev) ∨
    (s.popTurn.1 = .engine ∧ t.dev = s.dev.engineStep) ∨
    (t.rstN = false ∧ t.dev = Device.reset) := by
  cases (step_cases h).1 with
  | quiet dev _ _ | dataIn _ _ _ _ _ dev | busy _ _ _ _ dev | rejected _ _ _ _ _ _ _ _ dev => exact .inl (by simp [dev])
  | accepted v i turn _ _ phase line word dev => exact .inr (.inl ⟨turn, phase, v, i, line, word, dev⟩)
  | engine turn _ _ dev => exact .inr (.inr (.inl ⟨turn, dev⟩))
  | reset pin _ dev => exact .inr (.inr (.inr ⟨pin, dev⟩))
  | powerUp d turn _ _ _ => exact absurd turn (hp d)

section
variable {i : Instr} {d : Device}

/-- INIT alone writes H (R154). -/
theorem eq_init_of_acceptOf_hash_ne (h : (acceptOf i d).hash ≠ d.hash) : i = .init := by
  cases i with
  | init => rfl
  | feed len => exact absurd (Device.acceptFeed_hash len d) h
  | nop | digest | clrerr => exact absurd rfl h

/-- INIT alone writes DIGEST0..7 when it is accepted (R154). -/
theorem eq_init_of_acceptOf_digest_ne (h : (acceptOf i d).digest ≠ d.digest) : i = .init := by
  cases i with
  | init => rfl
  | feed len => exact absurd (Device.acceptFeed_digest len d) h
  | nop | digest | clrerr => exact absurd rfl h

/-- INIT and FEED alone write COUNT (R154, R155). -/
theorem acceptOf_count_cases (h : (acceptOf i d).count ≠ d.count) :
    (i = .init ∧ (acceptOf i d).count = 0) ∨
      ∃ len : BitVec 2, i = .feed len ∧ (acceptOf i d).count.toNat = (d.count.toNat + len.toNat + 1) % 2 ^ 64 := by
  cases i with
  | init => exact .inl ⟨rfl, rfl⟩
  | feed len =>
    refine .inr ⟨len, rfl, ?_⟩
    simp only [acceptOf, Device.acceptFeed_count, feedCount, BitVec.toNat_add, BitVec.toNat_ofNat]
    omega
  | nop | digest | clrerr => exact absurd rfl h

/-- INIT, FEED and DIGEST clear DVALID when they are accepted, and the others leave it (R30). -/
theorem acceptOf_dvalid_cases (i : Instr) (d : Device) :
    (acceptOf i d).dvalid = d.dvalid ∨
      ((acceptOf i d).dvalid = false ∧ (i = .init ∨ i = .digest ∨ ∃ len, i = .feed len)) := by
  cases i with
  | nop | clrerr => exact .inl rfl
  | init | digest | feed len => exact .inr ⟨rfl, by simp⟩

/-- The engine writes H in COMP alone (R23). -/
theorem Device.engineStep_hash_cases (h : d.engineStep.hash ≠ d.hash) :
    d.phase = .comp ∧ d.engineStep.hash = compress d.hash (d.cache.take 64) := by
  cases d.engineStep_cases with
  | feed _ _ phase dev => exact ⟨phase, by rw [dev]⟩
  | idle _ dev | firstFinal _ _ _ _ dev | lastFinal _ _ _ _ dev => exact absurd (by rw [dev]) h

/-- The engine leaves DVALID and DIGEST0..7 alone, or completes a DIGEST (R30, R37): DIGEST0..7 are HF, DVALID is 1 and PHASE is
IDLE. -/
theorem Device.engineStep_digest_cases (d : Device) :
    (d.engineStep.dvalid = d.dvalid ∧ d.engineStep.digest = d.digest) ∨
    (((d.phase = .fin1 ∧ d.fb.length ≠ 128) ∨ d.phase = .fin2) ∧ d.engineStep.digest = d.engineStep.hf ∧
      d.engineStep.dvalid = true ∧ d.engineStep.phase = .idle) := by
  cases d.engineStep_cases with
  | idle _ dev | feed _ _ _ dev | firstFinal _ _ _ _ dev => exact .inl (by rw [dev]; exact ⟨rfl, rfl⟩)
  | lastFinal _ _ _ due dev =>
    refine .inr ⟨due.imp (fun h => ⟨h.1, h.2.1⟩) And.left, ?_⟩
    rw [dev]
    exact ⟨rfl, rfl, rfl⟩

end

/-- Settles O45: INIT is the one command that writes H, and COMP the one phase whose engine step does. -/
theorem hashWrittenOnlyByThree : Obligations.HashWrittenOnlyByThree := by
  intro s t hstep hne hp
  rcases step_live_cases hstep hp with ⟨hsame, -⟩ | ⟨turn, phase, v, i, line, word, dev⟩ | ⟨turn, dev⟩ | ⟨pin, dev⟩
  · exact absurd hsame hne
  · obtain rfl := eq_init_of_acceptOf_hash_ne (dev ▸ hne)
    obtain rfl := encode_of_decode word
    exact .inr (.inl ⟨turn, phase, line, by rw [dev]; rfl⟩)
  · obtain ⟨hcomp, hhash⟩ := Device.engineStep_hash_cases (dev ▸ hne)
    exact .inl ⟨turn, hcomp, by rw [dev, hhash]⟩
  · exact .inr (.inr ⟨pin, by rw [dev]; rfl⟩)

/-- Settles O46: a command never sets DVALID, and an engine step never clears it. -/
theorem dvalidChangesOnlyAsTold : Obligations.DvalidChangesOnlyAsTold := by
  intro s t hstep hp
  rcases step_live_cases hstep hp with ⟨-, -, hsame, -⟩ | ⟨turn, phase, v, i, line, word, dev⟩ | ⟨turn, dev⟩ | ⟨pin, dev⟩
  · exact ⟨fun h0 h1 => by simp [hsame, h0] at h1, fun h1 h0 => by simp [hsame, h1] at h0⟩
  · rcases acceptOf_dvalid_cases i s.dev with hsame | ⟨hclear, hi⟩
    · exact ⟨fun h0 h1 => by simp [dev, hsame, h0] at h1, fun h1 h0 => by simp [dev, hsame, h1] at h0⟩
    · exact ⟨fun _ h1 => by simp [dev, hclear] at h1, fun _ _ => .inl ⟨turn, phase, v, i, line, word, hi⟩⟩
  · rcases s.dev.engineStep_digest_cases with ⟨hsame, -⟩ | ⟨hdue, -, hvalid, hidle⟩
    · exact ⟨fun h0 h1 => by simp [dev, hsame, h0] at h1, fun h1 h0 => by simp [dev, hsame, h1] at h0⟩
    · exact ⟨fun _ _ => ⟨turn, by rw [dev, hidle], hdue⟩, fun _ h0 => by simp [dev, hvalid] at h0⟩
  · exact ⟨fun _ h1 => by simp [dev, Device.reset] at h1, fun _ _ => .inr pin⟩

/-- Settles O47: INIT is the one command that writes DIGEST0..7, and a completion the one engine step that does. -/
theorem digestWrittenOnlyByCompletion : Obligations.DigestWrittenOnlyByCompletion := by
  intro s t hstep hne hp
  rcases step_live_cases hstep hp with ⟨-, -, -, hsame⟩ | ⟨turn, phase, v, i, line, word, dev⟩ | ⟨turn, dev⟩ | ⟨pin, dev⟩
  · exact absurd hsame hne
  · obtain rfl := eq_init_of_acceptOf_digest_ne (dev ▸ hne)
    obtain rfl := encode_of_decode word
    exact .inr (.inl ⟨turn, phase, line, by rw [dev]; rfl⟩)
  · rcases s.dev.engineStep_digest_cases with ⟨-, hsame⟩ | ⟨hdue, hdigest, hvalid, hidle⟩
    · exact absurd (dev ▸ hsame) hne
    · exact .inl ⟨turn, hdue.imp_left And.left, dev ▸ hdigest, dev ▸ hvalid, dev ▸ hidle⟩
  · exact .inr (.inr ⟨pin, by rw [dev]; rfl⟩)

/-- Settles O49: INIT and FEED are the commands that write COUNT, and no engine step does. -/
theorem countChangesOnlyByFeed : Obligations.CountChangesOnlyByFeed := by
  intro s t hstep hne hp
  rcases step_live_cases hstep hp with ⟨-, hsame, -⟩ | ⟨turn, phase, v, i, line, word, dev⟩ | ⟨-, dev⟩ | ⟨pin, dev⟩
  · exact absurd hsame hne
  · exact .inl ⟨turn, phase, v, i, line, word, dev ▸ acceptOf_count_cases (dev ▸ hne)⟩
  · exact absurd (dev ▸ s.dev.engineStep_count) hne
  · exact .inr ⟨pin, by rw [dev]; rfl⟩

end Sys2Proof.Machine
end

section
/-! PROOF. The constant tables (O28). -/

namespace Sys2Proof.Machine

/-- The primes below 312: the first 64. -/
def primesBelow312 : List Nat :=
  [2, 3, 5, 7, 11, 13, 17, 19, 23, 29, 31, 37, 41, 43, 47, 53] ++
  [59, 61, 67, 71, 73, 79, 83, 89, 97, 101, 103, 107, 109, 113, 127, 131] ++
  [137, 139, 149, 151, 157, 163, 167, 173, 179, 181, 191, 193, 197, 199, 211, 223] ++
  [227, 229, 233, 239, 241, 251, 257, 263, 269, 271, 277, 281, 283, 293, 307, 311]

/-- The sieve that `Obligations.ConstantsAreRootFractions` writes out gives them. -/
theorem sieve_eq_primesBelow312 :
    ((List.range 312).filter fun n => decide (2 ≤ n) && (List.range n).all fun d => decide (d < 2) || n % d != 0) =
      primesBelow312 := by
  decide +kernel

/-- The whole part of a cube root below 7. -/
def wholeCubeRoot (n : Nat) : Nat := (List.range 6).countP fun a => (a + 1) ^ 3 ≤ n

/-- The whole part of a square root below 5. -/
def wholeSquareRoot (n : Nat) : Nat := (List.range 4).countP fun a => (a + 1) ^ 2 ≤ n

/-- `floor(cbrt(p * 2^96))` for the i-th prime, put together from its whole part and K[i]. -/
def cubeRootOf (i : Nat) : Nat := wholeCubeRoot (primesBelow312.getD i 0) * 2 ^ 32 + (kWord i).toNat

/-- `isqrt(p * 2^64)` for the j-th prime, put together from its whole part and IV[j]. -/
def squareRootOf (j : Fin 8) : Nat := wholeSquareRoot (primesBelow312.getD j.val 0) * 2 ^ 32 + iv[j].toNat

theorem cubeRootOf_bounds : ∀ i : Fin 64, cubeRootOf i.val ^ 3 ≤ primesBelow312.getD i.val 0 * 2 ^ 96 ∧
    primesBelow312.getD i.val 0 * 2 ^ 96 < (cubeRootOf i.val + 1) ^ 3 := by
  decide +kernel

theorem squareRootOf_bounds : ∀ j : Fin 8, squareRootOf j ^ 2 ≤ primesBelow312.getD j.val 0 * 2 ^ 64 ∧
    primesBelow312.getD j.val 0 * 2 ^ 64 < (squareRootOf j + 1) ^ 2 := by
  decide +kernel

/-- The low 32 bits of a root put together from a whole part and a word are the word. -/
theorem ofNat_whole_add_word (a : Nat) (x : Word) : BitVec.ofNat 32 (a * 2 ^ 32 + x.toNat) = x := by
  have hx := x.isLt
  exact BitVec.eq_of_toNat_eq (by rw [BitVec.toNat_ofNat]; omega)

/-- Settles O28: K[i] and IV[j] under the whole part of the root are the root, taken to 32 bits. -/
theorem constantsAreRootFractions : Obligations.ConstantsAreRootFractions := by
  unfold Obligations.ConstantsAreRootFractions
  rw [sieve_eq_primesBelow312]
  refine ⟨rfl, rfl, fun i => ⟨cubeRootOf i.val, ?_, ?_, ?_⟩, fun j => ⟨squareRootOf j, ?_, ?_, ?_⟩⟩
  · exact (cubeRootOf_bounds i).1
  · exact (cubeRootOf_bounds i).2
  · exact (ofNat_whole_add_word _ _).symm
  · exact (squareRootOf_bounds j).1
  · exact (squareRootOf_bounds j).2
  · exact (ofNat_whole_add_word _ _).symm

end Sys2Proof.Machine
end

section
/-! PROOF. The text form of a digest (O58): two concatenations of pieces of one length, and an alphabet without repetition. -/

namespace Sys2Proof.Machine

/-! ### Concatenations of pieces of one length -/

section
variable {α β : Type} {f : α → List β} {n : Nat}

/-- Item r of piece q stands at place n q + r. -/
theorem getElem?_flatMap_of_length (hf : ∀ a, (f a).length = n) {r : Nat} (hr : r < n) (l : List α) (q : Nat) :
    (l.flatMap f)[n * q + r]? = l[q]?.bind fun a => (f a)[r]? := by
  induction l generalizing q with
  | nil => simp
  | cons a l ih =>
    rw [List.flatMap_cons]
    cases q with
    | zero => simp [List.getElem?_append_left, hf, hr]
    | succ q =>
      rw [List.getElem?_append_right (by rw [hf, Nat.mul_succ]; omega), hf,
        show n * (q + 1) + r - n = n * q + r by rw [Nat.mul_succ]; omega, ih]
      rfl

theorem length_flatMap_of_length (hf : ∀ a, (f a).length = n) (l : List α) : (l.flatMap f).length = n * l.length := by
  simp [List.length_flatMap, hf, Nat.mul_comm]

/-- Pieces of one positive length can be told apart again. -/
theorem flatMap_injective_of_length (hf : ∀ a, (f a).length = n) (hn : 0 < n) (hinj : Function.Injective f) :
    Function.Injective (List.flatMap f) := by
  intro l m h
  induction l generalizing m with
  | nil =>
    have hlen := congrArg List.length h
    rw [length_flatMap_of_length hf, length_flatMap_of_length hf] at hlen
    exact (List.length_eq_zero_iff.1 (by simpa [hn.ne'] using hlen.symm)).symm
  | cons a l ih =>
    cases m with
    | nil =>
      have hlen := congrArg List.length h
      rw [length_flatMap_of_length hf, length_flatMap_of_length hf] at hlen
      simp [hn.ne'] at hlen
    | cons b m =>
      rw [List.flatMap_cons, List.flatMap_cons] at h
      obtain ⟨hab, hlm⟩ := List.append_inj h (by rw [hf, hf])
      rw [hinj hab, ih hlm]

end

/-! ### The digest bytes -/

/-- `be32` undoes `be32enc` (R15). -/
theorem be32_of_be32enc (x : Word) :
    be32 (x.extractLsb' 24 8) (x.extractLsb' 16 8) (x.extractLsb' 8 8) (x.extractLsb' 0 8) = x := by
  rw [be32, BitVec.extractLsb'_append_extractLsb'_eq_extractLsb' (by decide),
    BitVec.extractLsb'_append_extractLsb'_eq_extractLsb' (by decide),
    BitVec.extractLsb'_append_extractLsb'_eq_extractLsb' (by decide), BitVec.extractLsb'_eq_self]

theorem be32enc_injective : Function.Injective be32enc := by
  intro x y h
  simp only [be32enc, List.cons.injEq, and_true] at h
  obtain ⟨h0, h1, h2, h3⟩ := h
  rw [← be32_of_be32enc x, h0, h1, h2, h3, be32_of_be32enc]

theorem be32enc_length (x : Word) : (be32enc x).length = 4 := rfl

theorem be32enc_getElem? (x : Word) (k : Fin 4) : (be32enc x)[k.val]? = some (x.extractLsb' (24 - 8 * k.val) 8) := by
  fin_cases k <;> rfl

/-- Digest byte 4 j + k is byte k of DIGESTj, the most significant first (R37). -/
theorem digestBytes_getElem? (D : HashValue) (j : Fin 8) (k : Fin 4) :
    (digestBytes D)[4 * j.val + k.val]? = some (D[j].extractLsb' (24 - 8 * k.val) 8) := by
  rw [digestBytes, getElem?_flatMap_of_length be32enc_length k.isLt]
  simp [be32enc_getElem?]

theorem digestBytes_length (D : HashValue) : (digestBytes D).length = 32 := by
  rw [digestBytes, length_flatMap_of_length be32enc_length]
  simp

/-! ### Hexadecimal -/

theorem hexByte_length (b : Byte) : (hexByte b).length = 2 := rfl

/-- The halves of a byte, as numbers. -/
theorem toNat_high_half (b : Byte) : (b >>> 4).toNat = b.toNat / 16 := by
  rw [BitVec.toNat_ushiftRight, Nat.shiftRight_eq_div_pow]

theorem toNat_low_half (b : Byte) : (b &&& 0xF).toNat = b.toNat % 16 := by
  rw [BitVec.toNat_and]
  exact Nat.and_two_pow_sub_one_eq_mod _ 4

theorem hexAlphabet_getElem? {n : Nat} (hn : n < 16) : hexAlphabet[n]? = some (hexAlphabet.getD n '0') := by
  rw [List.getD_eq_getElem?_getD, List.getElem?_eq_getElem (show n < hexAlphabet.length from hn)]
  rfl

/-- The alphabet has no character twice. -/
theorem hexAlphabet_getD_inj {m n : Nat} (hm : m < 16) (hn : n < 16)
    (h : hexAlphabet.getD m '0' = hexAlphabet.getD n '0') : m = n := by
  have hnodup : hexAlphabet.Nodup := by decide
  rw [← Option.some_inj, ← hexAlphabet_getElem? hm, ← hexAlphabet_getElem? hn] at h
  exact (List.getElem?_inj hm hnodup).1 h

/-- A byte's characters, by the values of its halves. -/
theorem hexByte_eq (b : Byte) :
    hexByte b = [hexAlphabet.getD (b.toNat / 16) '0', hexAlphabet.getD (b.toNat % 16) '0'] := by
  rw [hexByte, toNat_high_half, toNat_low_half]

theorem hexByte_injective : Function.Injective hexByte := by
  intro a b h
  have ha := a.isLt
  have hb := b.isLt
  simp only [hexByte_eq, List.cons.injEq, and_true] at h
  have hhigh := hexAlphabet_getD_inj (by omega) (by omega) h.1
  have hlow := hexAlphabet_getD_inj (by omega) (by omega) h.2
  exact BitVec.eq_of_toNat_eq (by omega)

theorem mem_hexAlphabet_of_mem_hexByte {b : Byte} {c : Char} (h : c ∈ hexByte b) : c ∈ hexAlphabet := by
  have hb := b.isLt
  rw [hexByte_eq, List.mem_pair] at h
  rcases h with rfl | rfl
  · exact List.mem_of_getElem? (hexAlphabet_getElem? (by omega))
  · exact List.mem_of_getElem? (hexAlphabet_getElem? (by omega))

theorem hexDigest_length (D : HashValue) : (hexDigest D).length = 64 := by
  rw [hexDigest, length_flatMap_of_length hexByte_length, digestBytes_length]

/-- Digest byte 4 j + k gives the two characters of its halves, the high half first (R166). -/
theorem hexDigest_getElem? (D : HashValue) (j : Fin 8) (k : Fin 4) {r : Nat} (hr : r < 2) :
    (hexDigest D)[2 * (4 * j.val + k.val) + r]? = (hexByte (D[j].extractLsb' (24 - 8 * k.val) 8))[r]? := by
  rw [hexDigest, getElem?_flatMap_of_length hexByte_length hr, digestBytes_getElem?]
  rfl

theorem hexDigest_injective : Function.Injective hexDigest := by
  intro D E h
  have hbytes : digestBytes D = digestBytes E := flatMap_injective_of_length hexByte_length (by decide) hexByte_injective h
  have hwords := flatMap_injective_of_length be32enc_length (by decide) be32enc_injective hbytes
  exact Vector.toList_inj.1 hwords

/-- Settles O58: a character stands where its byte and half put it, and pieces of one length can be told apart again. -/
theorem hexDigestForm : Obligations.HexDigestForm := by
  refine ⟨fun D => ⟨hexDigest_length D, fun c hc => ?_⟩, fun D j k => ⟨?_, ?_⟩, fun D E h => hexDigest_injective h⟩
  · obtain ⟨b, -, hb⟩ := List.mem_flatMap.1 hc
    exact mem_hexAlphabet_of_mem_hexByte hb
  · have hb := (D[j].extractLsb' (24 - 8 * k.val) 8).isLt
    refine (hexDigest_getElem? D j k (r := 0) (by decide)).trans ?_
    rw [hexByte_eq]
    exact (hexAlphabet_getElem? (by omega)).symm
  · refine (hexDigest_getElem? D j k (r := 1) (by decide)).trans ?_
    rw [hexByte_eq]
    exact (hexAlphabet_getElem? (Nat.mod_lt _ (by decide))).symm

end Sys2Proof.Machine
end

section
/-! PROOF. Accesses that change nothing but the host, or DATA_IN alone (O33, O34), and accesses that are refused (O38). -/

namespace Sys2Proof.Machine

/-! ### Writes to the window -/

/-- A write to an index other than CMD's and DATA_IN's changes nothing (R65, R66). -/
theorem State.busWrite_other {k : BitVec 6} (hcmd : k ≠ 2) (hdataIn : k ≠ 3) (v : Word) (s : State) :
    s.busWrite k v = .next s := by
  rcases s.busWrite_cases k v with ⟨hk, -⟩ | ⟨hk, -⟩ | ⟨-, -, hwrite⟩
  · exact absurd hk hcmd
  · exact absurd hk hdataIn
  · exact hwrite

/-- A write to DATA_IN's index stores the value, and nothing else (R34). -/
theorem State.busWrite_dataIn (v : Word) (s : State) :
    s.busWrite 3 v = .next (s.setDev { s.dev with dataIn := v }) := rfl

/-! ### Host reads, and refused accesses -/

section
variable {s : State} {o : BitVec 8}

/-- An aligned host read of a block that is out of reset puts the register's value into the host's variable, and changes nothing
else (R68, R81). -/
theorem State.hostRead_aligned {x : Nat} {v : Word} (hrst : s.rstN = true) (hseen : s.resetSeen = true)
    (halign : o.extractLsb' 0 2 = 0) (hread : s.dev.busRead (o.extractLsb' 2 6) = .ok v) :
    s.hostRead o x = .next (s.setHost { s.host with vars := assignVar x v s.host.vars }) := by
  simp [State.hostRead, State.accessRefused, halign, hseen, Device.busRdata, State.accessPins, hrst, hread, State.clockEdge]

/-- The step of such a read: the turn is taken, the variable assigned, and the host at its next line. -/
theorem step_of_host_read {x : Nat} {v : Word} (hrst : s.rstN = true) (hseen : s.resetSeen = true)
    (hturn : s.popTurn.1 = .host) (hline : s.host.nextLine = some (.rd o x)) (halign : o.extractLsb' 0 2 = 0)
    (hread : s.dev.busRead (o.extractLsb' 2 6) = .ok v) :
    step s = .next { s with
      schedule := s.popTurn.2.schedule
      host := { s.host with pc := s.host.pc + 1, vars := assignVar x v s.host.vars } } := by
  rw [step_of_host_line hturn hline, State.popTurn_advance]
  exact State.hostRead_aligned hrst hseen halign hread

/-- A misaligned access is refused before anything else is looked at (R63). -/
theorem State.accessRefused_misaligned (halign : o.extractLsb' 0 2 ≠ 0) :
    s.accessRefused o = some .misalignedAccess := if_pos halign

theorem State.hostWrite_misaligned (v : Word) (halign : o.extractLsb' 0 2 ≠ 0) :
    s.hostWrite o v = .refused .misalignedAccess := by
  rw [State.hostWrite, State.accessRefused_misaligned halign]

theorem State.hostRead_misaligned (x : Nat) (halign : o.extractLsb' 0 2 ≠ 0) :
    s.hostRead o x = .refused .misalignedAccess := by
  rw [State.hostRead, State.accessRefused_misaligned halign]

end

/-- Settles O33: the read's one effect is the assignment of the variable, and a DATA_IN write's is DATA_IN. -/
theorem readsHaveNoSideEffect : Obligations.ReadsHaveNoSideEffect := by
  refine ⟨fun s offset x v hrst hseen hturn hline halign hread => ?_, fun s v => ?_⟩
  · exact ⟨_, step_of_host_read hrst hseen hturn hline halign hread, rfl, lookupVar_assignVar_same x v _,
      fun y hy => lookupVar_assignVar_other hy v _, rfl, rfl, rfl, rfl, rfl, rfl⟩
  · exact ⟨_, s.busWrite_dataIn v, rfl, State.busWrite_dataIn v _⟩

/-- Settles O34: the step is the bus write at an index that takes none. -/
theorem otherWritesIgnored : Obligations.OtherWritesIgnored := by
  refine ⟨fun k v s hcmd hdataIn => s.busWrite_other hcmd hdataIn v,
    fun s offset v hrst hseen hturn hline halign hcmd hdataIn => ?_⟩
  rw [step_of_host_line hturn hline, State.popTurn_advance]
  refine (State.hostWrite_aligned v ?_ ?_ halign).trans (State.busWrite_other hcmd hdataIn v _)
  · exact hrst
  · exact hseen

/-- Settles O38: a misaligned line is refused by the access it makes, and the other two attempts by their turn. -/
theorem forbiddenAccessesRefused : Obligations.ForbiddenAccessesRefused := by
  refine fun s => ⟨fun offset v hturn hline halign => ?_, fun offset x hturn hline halign => ?_, fun hturn => ?_, fun hturn => ?_⟩
  · exact (step_of_host_line hturn hline).trans (State.hostWrite_misaligned v halign)
  · exact (step_of_host_line hturn hline).trans (State.hostRead_misaligned x halign)
  · rw [step, hturn, takeTurn]
  · rw [step, hturn, takeTurn]

end Sys2Proof.Machine
end

section
/-! PROOF. The command word against its command and its row of the opcode map: decode and encode undo each other (O2), and a word
decodes just when a row selects it (O3); the spec's sample words (O1). -/

namespace Sys2Proof

/-! ### Decode and encode -/

/-- The word of a command decodes to the command (R95). -/
theorem decode_encode (i : Instr) : decode (encode i) = .ok i := by
  cases i with
  | feed len => revert len; decide
  | nop | init | digest | clrerr => rfl

/-- A word selects a command just when it is the command's word. -/
theorem decode_eq_ok_iff {v : Word} {i : Instr} : decode v = .ok i ↔ encode i = v :=
  ⟨encode_of_decode, fun h => h ▸ decode_encode i⟩

/-- Given as a number of 32 bits, a word decodes as the word it is. -/
theorem decodeTableWord_of_decode {v : Word} {i : Instr} (h : decode v = .ok i) : decodeTableWord 32 v.toNat = some i := by
  rw [decodeTableWord, if_pos ⟨le_rfl, v.isLt⟩, BitVec.ofNat_toNat, BitVec.setWidth_eq, h]

/-- Settles O2: `decode_encode`, and its converse `encode_of_decode`. -/
theorem decodeEncodeAgree : Obligations.DecodeEncodeAgree :=
  ⟨fun i _ => ⟨decode_encode i, decodeTableWord_of_decode (decode_encode i)⟩, fun _ _ => encode_of_decode⟩

/-- Settles O1: the legal words are commands' words, and the others fail a test of R96. -/
theorem sampleCommandWordsDecode : Obligations.SampleCommandWordsDecode :=
  ⟨decode_encode .nop, decode_encode .init, decode_encode (.feed 0), decode_encode (.feed 1), decode_encode (.feed 2),
    decode_encode (.feed 3), decode_encode .digest, decode_encode .clrerr,
    decode_of_illegal (by decide), decode_of_illegal (by decide),
    decode_of_reserved (by decide) (by decide), decode_of_reserved (by decide) (by decide),
    decode_of_reserved (by decide) (by decide), decode_of_reserved (by decide) (by decide)⟩

/-! ### The opcode map -/

theorem OpcodeRow.selects_iff {row : OpcodeRow} {v : Word} : row.selects v = true ↔ v &&& row.mask = row.pattern :=
  beq_iff_eq

/-- Every command's word lies in the command's row. -/
theorem opcodeRow_selects_encode (i : Instr) : (opcodeRow i).selects (encode i) = true := by
  cases i with
  | nop => exact Laws.OpcodeRow.nop
  | init => exact Laws.OpcodeRow.init
  | feed len => exact Laws.OpcodeRow.feed len
  | digest => exact Laws.OpcodeRow.digest
  | clrerr => exact Laws.OpcodeRow.clrerr

/-- A word that decodes lies in its command's row. -/
theorem opcodeRow_selects_of_decode {v : Word} {i : Instr} (h : decode v = .ok i) : (opcodeRow i).selects v = true :=
  encode_of_decode h ▸ opcodeRow_selects_encode i

theorem opcodeRow_mem_opcodeTable (i : Instr) : opcodeRow i ∈ opcodeTable := by
  cases i with
  | feed len => exact (by decide : opcodeRow (.feed 0) ∈ opcodeTable)
  | nop | init | digest | clrerr => decide

/-- The command of a row that has this LEN, where the row's commands carry one (R93, R94). -/
def Instr.withLen (len : BitVec 2) : Instr → Instr
  | .feed _ => .feed len
  | i => i

theorem opcodeRow_withLen (len : BitVec 2) (i : Instr) : opcodeRow (i.withLen len) = opcodeRow i := by
  cases i <;> rfl

/-- A word in the FEED row has RSV 0 and OPCODE 2, whatever its LEN. -/
theorem fields_of_feed_match {v : Word} (h : v &&& 0xFFFFFCFF = 0x00000002) : rsvField v = 0 ∧ opcodeField v = 2 := by
  constructor
  · calc rsvField v = rsvField (v &&& 0xFFFFFCFF) := (BitVec.extractLsb'_and.trans BitVec.and_allOnes).symm
      _ = 0 := congrArg rsvField h
  · calc opcodeField v = opcodeField (v &&& 0xFFFFFCFF) := (BitVec.extractLsb'_and.trans BitVec.and_allOnes).symm
      _ = 2 := congrArg opcodeField h

/-- A word that a row selects is the word of the row's command with the word's own LEN. -/
theorem encode_withLen_of_match {v : Word} {i : Instr} (h : v &&& (opcodeRow i).mask = (opcodeRow i).pattern) :
    encode (i.withLen (lenField v)) = v := by
  cases i with
  | feed len =>
    obtain ⟨hr, ho⟩ := fields_of_feed_match h
    calc encode (.feed (lenField v)) = rsvField v ++ lenField v ++ opcodeField v := by rw [hr, ho, encode]
      _ = v := fields_append v
  | nop | init | digest | clrerr => exact h.symm.trans BitVec.and_allOnes

/-- A word that a row selects decodes to the row's command with the word's own LEN (R95). -/
theorem decode_of_match {v : Word} {i : Instr} (h : v &&& (opcodeRow i).mask = (opcodeRow i).pattern) :
    decode v = .ok (i.withLen (lenField v)) := decode_eq_ok_iff.2 (encode_withLen_of_match h)

/-- A row of the map that selects a word is the row of the command that the word decodes to. -/
theorem opcodeTable_selects {v : Word} {row : OpcodeRow} (hrow : row ∈ opcodeTable) (h : row.selects v = true) :
    ∃ i, decode v = .ok i ∧ row = opcodeRow i := by
  obtain ⟨i, rfl⟩ : ∃ i, row = opcodeRow i := by
    simp only [opcodeTable, List.mem_cons, List.not_mem_nil, or_false] at hrow
    rcases hrow with h | h | h | h | h <;> exact ⟨_, h⟩
  exact ⟨_, decode_of_match (OpcodeRow.selects_iff.1 h), (opcodeRow_withLen _ i).symm⟩

/-- "The rows do not overlap" (R95): a row that selects the word is the one of its command, and no row stands twice in the map. -/
theorem opcodeTable_selects_at_most_one (v : Word) : (opcodeTable.filter fun row => row.selects v).length ≤ 1 := by
  cases hd : decode v with
  | error r =>
    have hnone : (opcodeTable.filter fun row => row.selects v) = [] := by
      refine List.filter_eq_nil_iff.2 fun row hrow hsel => ?_
      obtain ⟨i, hi, -⟩ := opcodeTable_selects hrow hsel
      cases hd.symm.trans hi
    simp [hnone]
  | ok i =>
    have hunique : ∀ row ∈ opcodeTable, row.selects v = true → (row == opcodeRow i) = true := by
      intro row hrow hsel
      obtain ⟨j, hj, rfl⟩ := opcodeTable_selects hrow hsel
      cases hd.symm.trans hj
      exact beq_self_eq_true _
    have hnodup : opcodeTable.Nodup := by decide
    calc (opcodeTable.filter fun row => row.selects v).length
        = opcodeTable.countP fun row => row.selects v := List.countP_eq_length_filter.symm
      _ ≤ opcodeTable.count (opcodeRow i) := List.countP_mono_left hunique
      _ ≤ 1 := List.nodup_iff_count_le_one.1 hnodup _

/-- Settles O3: a selected word decodes to its row's command, a word that decodes is selected, and only by that row. -/
theorem decodeFollowsOpcodeMap : Obligations.DecodeFollowsOpcodeMap := by
  intro v
  refine ⟨fun i h => OpcodeRow.selects_iff.1 (opcodeRow_selects_of_decode h),
    decode_of_match (i := .nop), decode_of_match (i := .init), decode_of_match (i := .feed 0),
    decode_of_match (i := .digest), decode_of_match (i := .clrerr),
    fun hnone => ?_, opcodeTable_selects_at_most_one v⟩
  cases hd : decode v with
  | error r => exact ⟨r, rfl⟩
  | ok i =>
    have hsel := opcodeRow_selects_of_decode hd
    rw [hnone _ (opcodeRow_mem_opcodeTable i)] at hsel
    cases hsel

end Sys2Proof
end

section
/-! PROOF. The CMD write by R96's tests (O5), and at rest the words that are refused (O4). -/

namespace Sys2Proof.Machine

section
variable {s : State} {v : Word}

/-- A CMD write while BUSY = 1 is refused with BUSY, whatever the word (R184). -/
theorem State.writeCmd_busy (hbusy : s.dev.busy = true) :
    s.writeCmd v = .next (s.setDev { s.dev with err := if s.dev.err = 0 then 1 else s.dev.err }) := by
  rw [State.writeCmd, if_pos hbusy, Device.raise_eq]; rfl

/-- A CMD write with BUSY = 0 of a word that is rejected records the error of the rejection, and does nothing else (R183). -/
theorem State.writeCmd_rejected {r : Reject} (hbusy : s.dev.busy = false) (hword : decode v = .error r) :
    s.writeCmd v =
      .next (s.setDev { s.dev with err := if s.dev.err = 0 then (rejectCode r).code else s.dev.err }) := by
  rw [State.writeCmd, hbusy, hword, ← Device.raise_eq]; rfl

/-- An OPCODE above 4 raises ILLEGAL_OP (R97, R185). -/
theorem State.writeCmd_illegal (hbusy : s.dev.busy = false) (hop : 4 < (v.extractLsb' 0 8).toNat) :
    s.writeCmd v = .next (s.setDev { s.dev with err := if s.dev.err = 0 then 2 else s.dev.err }) :=
  State.writeCmd_rejected hbusy (decode_of_illegal hop)

/-- A defined OPCODE with RSV not 0, or with LEN not 0 and no FEED, raises RESERVED_BITS (R98, R186). -/
theorem State.writeCmd_reserved (hbusy : s.dev.busy = false) (hop : (v.extractLsb' 0 8).toNat ≤ 4)
    (hbits : v.extractLsb' 10 22 ≠ 0 ∨ ((v.extractLsb' 0 8).toNat ≠ 2 ∧ v.extractLsb' 8 2 ≠ 0)) :
    s.writeCmd v = .next (s.setDev { s.dev with err := if s.dev.err = 0 then 3 else s.dev.err }) := by
  refine State.writeCmd_rejected hbusy (decode_of_reserved hop (hbits.imp_right fun ⟨hnot, hlen⟩ => ⟨?_, hlen⟩))
  exact fun heq => hnot (congrArg BitVec.toNat heq)

/-- A word that passes R96's tests runs the command that it decodes to. -/
theorem State.writeCmd_legal (hop : (v.extractLsb' 0 8).toNat ≤ 4) (hrsv : v.extractLsb' 10 22 = 0)
    (hlen : (v.extractLsb' 0 8).toNat = 2 ∨ v.extractLsb' 8 2 = 0) :
    ∃ i, decode v = .ok i ∧ s.writeCmd v = exec i s := by
  obtain ⟨i, hi⟩ := decode_isOk hop hrsv (hlen.imp_left fun h => BitVec.eq_of_toNat_eq h)
  exact ⟨i, hi, State.writeCmd_of_decode hi s⟩

end

/-- Settles O4: at rest BUSY = 0, and the word is rejected. -/
theorem illegalAndReservedWordsRefused : Obligations.IllegalAndReservedWordsRefused := by
  intro v s hrest
  have hbusy := (Device.busy_eq_false_iff s.dev).2 hrest
  exact ⟨State.writeCmd_illegal hbusy, State.writeCmd_reserved hbusy⟩

/-- Settles O5: one lemma for each branch of R96. -/
theorem cmdWriteProcedure : Obligations.CmdWriteProcedure := by
  refine fun v s => ⟨State.writeCmd_busy, State.writeCmd_illegal, State.writeCmd_reserved, fun _ hop hrsv hlen => ?_⟩
  obtain ⟨i, hi, hexec⟩ := State.writeCmd_legal (s := s) hop hrsv hlen
  exact ⟨i, OpcodeRow.selects_iff.1 (opcodeRow_selects_of_decode hi), encode_of_decode hi, hexec⟩

end Sys2Proof.Machine
end

section
/-! PROOF. The feed procedure (O57): the chunks of a message, the lines of a list of chunks, and why those are well formed. -/

namespace Sys2Proof.Machine

/-! ### Chunks -/

/-- Above its lowest byte a concatenation is what stands in front of that byte. -/
theorem extractLsb'_append_byte {w : Nat} (x : BitVec w) (b : Byte) (k : Nat) :
    (x ++ b).extractLsb' (8 + k) 8 = x.extractLsb' k 8 := by
  rw [BitVec.extractLsb'_append_eq_of_le (Nat.le_add_right 8 k), Nat.add_sub_cancel_left]

/-- The lanes of a word are the four bytes it is put together from (R15, R70). -/
@[simp] theorem lanes_be32 (b0 b1 b2 b3 : Byte) : lanes (be32 b0 b1 b2 b3) = [b0, b1, b2, b3] := by
  have h0 : (be32 b0 b1 b2 b3).extractLsb' 24 8 = b0 :=
    (extractLsb'_append_byte _ b3 16).trans
      ((extractLsb'_append_byte _ b2 8).trans BitVec.extractLsb'_append_eq_left)
  have h1 : (be32 b0 b1 b2 b3).extractLsb' 16 8 = b1 :=
    (extractLsb'_append_byte _ b3 8).trans
      ((extractLsb'_append_byte _ b2 0).trans BitVec.extractLsb'_append_eq_right)
  have h2 : (be32 b0 b1 b2 b3).extractLsb' 8 8 = b2 :=
    (extractLsb'_append_byte _ b3 0).trans BitVec.extractLsb'_append_eq_right
  have h3 : (be32 b0 b1 b2 b3).extractLsb' 0 8 = b3 := BitVec.extractLsb'_append_eq_right
  rw [lanes, h0, h1, h2, h3]

theorem chunkBytes_cons (c : BitVec 2 × Word) (cs : List (BitVec 2 × Word)) :
    chunkBytes (c :: cs) = feedBytes c.1 c.2 ++ chunkBytes cs := List.flatMap_cons

/-- The chunks of a message carry its bytes in order (R168). -/
theorem chunkBytes_feedChunks (m : List Byte) : chunkBytes (feedChunks m) = m := by
  induction m using feedChunks.induct with
  | case1 => rfl
  | case2 | case3 | case4 => simp [feedChunks, chunkBytes, feedBytes, feedCount]
  | case5 b0 b1 b2 b3 rest ih => rw [feedChunks, chunkBytes_cons, ih]; simp [feedBytes, feedCount]

theorem feedChunks_length (m : List Byte) : (feedChunks m).length = (m.length + 3) / 4 := by
  induction m using feedChunks.induct with
  | case1 => rfl
  | case2 | case3 | case4 => simp [feedChunks]
  | case5 b0 b1 b2 b3 rest ih => simp only [feedChunks, List.length_cons, ih]; omega

/-- Without its first k chunks a message is chunked as without its first 4k bytes. -/
theorem drop_feedChunks (k : Nat) (m : List Byte) : (feedChunks m).drop k = feedChunks (m.drop (4 * k)) := by
  induction k generalizing m with
  | zero => rfl
  | succ k ih =>
    cases m using feedChunks.fun_cases with
    | case1 => rfl
    | case2 | case3 | case4 => simp [feedChunks, Nat.mul_succ]
    | case5 b0 b1 b2 b3 rest => exact ih rest

/-- The first chunk is the first four bytes, or those there are: LEN says how many, and zeros fill the word (R168). -/
theorem feedChunks_head {m : List Byte} {c : BitVec 2 × Word} {cs : List (BitVec 2 × Word)} (h : feedChunks m = c :: cs) :
    c.1.toNat + 1 = (m.take 4).length ∧ lanes c.2 = m.take 4 ++ zeros (4 - (m.take 4).length) := by
  cases m using feedChunks.fun_cases with
  | case1 => cases h
  | case2 | case3 | case4 | case5 => cases h; exact ⟨rfl, lanes_be32 _ _ _ _⟩

/-! ### Lines -/

section
variable (x l : Nat) (cs : List (BitVec 2 × Word))

theorem feedwAll_length : (feedwAll x l cs).length = 5 * cs.length := by
  induction cs generalizing l with
  | nil => rfl
  | cons c cs ih => rw [feedwAll, List.length_append, ih]; simp [feedw, poll]; omega

/-- Every chunk has five lines and a label of its own. -/
theorem drop_feedwAll (k : Nat) : (feedwAll x l cs).drop (5 * k) = feedwAll x (l + k) (cs.drop k) := by
  induction k generalizing l cs with
  | zero => rfl
  | succ k ih =>
    cases cs with
    | nil => simp [feedwAll]
    | cons c cs =>
      calc (feedwAll x l (c :: cs)).drop (5 * (k + 1))
          = (feedwAll x (l + 1) cs).drop (5 * k) := rfl
        _ = feedwAll x (l + 1 + k) (cs.drop k) := ih (l + 1) cs
        _ = feedwAll x (l + (k + 1)) ((c :: cs).drop (k + 1)) := by rw [List.drop_succ_cons, Nat.add_right_comm, Nat.add_assoc]

/-- The labels are consecutive from l on, one for each chunk. -/
theorem labelsOf_feedwAll : labelsOf (feedwAll x l cs) = List.range' l cs.length := by
  induction cs generalizing l with
  | nil => rfl
  | cons c cs ih => exact congrArg (l :: ·) (ih (l + 1))

variable {x l cs}

/-- The lines are well formed beside any labels that have all of theirs. -/
theorem wellFormed_of_mem_feedwAll {labels : List Nat} (hlabels : List.range' l cs.length ⊆ labels) {line : HostLine}
    (hline : line ∈ feedwAll x l cs) : line.wellFormed labels = true := by
  induction cs generalizing l with
  | nil => cases hline
  | cons c cs ih =>
    obtain ⟨hl, hrest⟩ := List.cons_subset.1 hlabels
    rcases List.mem_append.1 hline with hw | hw
    · simp only [feedw, poll, List.cons_append, List.nil_append, List.mem_cons, List.not_mem_nil, or_false] at hw
      rcases hw with rfl | rfl | rfl | rfl | rfl
      case inr.inr.inr.inr => exact List.contains_iff_mem.2 hl
      all_goals rfl
    · exact ih hrest hw

end

theorem labelsDistinct_iff_nodup (labels : List Nat) : labelsDistinct labels = true ↔ labels.Nodup := by
  induction labels with
  | nil => simp [labelsDistinct]
  | cons l rest ih => simp [labelsDistinct, ih]

/-- The lines of a list of chunks are a well-formed host program (R101, R103). -/
theorem hostProgramWellFormed_feedwAll (x l : Nat) (cs : List (BitVec 2 × Word)) :
    hostProgramWellFormed (feedwAll x l cs) = true := by
  rw [hostProgramWellFormed, labelsOf_feedwAll, Bool.and_eq_true, labelsDistinct_iff_nodup, List.all_eq_true]
  exact ⟨List.nodup_range', fun _ => wellFormed_of_mem_feedwAll (List.Subset.refl _)⟩

/-- Settles O57: chunk k is the first chunk of what is left behind the first 4k bytes, and its lines are the first five behind
the first 5k. -/
theorem feedProcedureCarriesMessage : Obligations.FeedProcedureCarriesMessage := by
  intro m
  refine ⟨chunkBytes_feedChunks m, feedChunks_length m, fun l x => ⟨hostProgramWellFormed_feedwAll x l _, ?_⟩, fun k c hc => ?_⟩
  · rw [feedProcedure, feedwAll_length, feedChunks_length]
  · have hdrop : (feedChunks m).drop k = c :: (feedChunks m).drop (k + 1) := by
      rw [List.drop_eq_getElem?_toList_append, hc]; rfl
    obtain ⟨hlen, hlanes⟩ := feedChunks_head ((drop_feedChunks k m).symm.trans hdrop)
    refine ⟨hlen, hlanes, fun l x => ?_⟩
    rw [feedProcedure, drop_feedwAll, hdrop]
    rfl

end Sys2Proof.Machine
end

section
/-! PROOF. The host lines that touch no register: labels, BNZ and HALT (O39). -/

namespace Sys2Proof.Machine

/-- A host that has halted takes no line (R101). -/
theorem HostAgent.nextLine_of_halted {h : HostAgent} (hhalt : h.halted = true) : h.nextLine = none := if_pos hhalt

/-- Settles O39: the step is the run of the line, with the host at the next line already. -/
theorem hostControlLines : Obligations.HostControlLines := by
  refine fun s => ⟨fun l hturn hline => ?_, fun x l k mask hturn hline hvar hfind => ⟨?_, findLabel_spec hfind⟩,
    fun x l mask hturn hline hvar => ?_, fun hturn hline => ?_⟩
  · exact step_of_host_line hturn hline
  · exact (step_of_host_line hturn hline).trans (State.runLine_bnz_taken hvar hfind)
  · exact (step_of_host_line hturn hline).trans (State.runLine_bnz_zero hvar)
  · exact ⟨_, step_of_host_line hturn hline, s.popTurn_dev, rfl, HostAgent.nextLine_of_halted rfl⟩

end Sys2Proof.Machine
end

section
/-! PROOF. The padding (O20, O21, O22): the eight bytes of the length value, and then `pad(count)` and FB byte by byte. -/

namespace Sys2Proof.Machine

/-! ### The eight bytes of a 64-bit value -/

/-- A field inside a field of x is a field of x. -/
theorem extractLsb'_extractLsb'_add {w start len start' len' : Nat} (x : BitVec w) (h : start' + len' ≤ len) :
    (x.extractLsb' start len).extractLsb' start' len' = x.extractLsb' (start + start') len' := by
  ext i hi
  simp [Nat.add_assoc]
  omega

/-- Byte k of `be64enc(v)`, the most significant first (R15). -/
theorem be64enc_getElem? (v : BitVec 64) (k : Fin 8) : (be64enc v)[k.val]? = some (v.extractLsb' (56 - 8 * k.val) 8) := by
  fin_cases k <;> exact congrArg some (extractLsb'_extractLsb'_add v (by decide))

/-- The number whose digits to base 256 are those of acc and then the bytes, the most significant first. -/
def readBigEndian (acc : Nat) (bytes : List Byte) : Nat := bytes.foldl (fun acc b => acc * 256 + b.toNat) acc

theorem readBigEndian_append (acc : Nat) (bytes bytes' : List Byte) :
    readBigEndian acc (bytes ++ bytes') = readBigEndian (readBigEndian acc bytes) bytes' := List.foldl_append

/-- `be32enc` is read back as the word's value (R15). -/
theorem readBigEndian_be32enc (acc : Nat) (x : Word) : readBigEndian acc (be32enc x) = acc * 2 ^ 32 + x.toNat := by
  simp only [readBigEndian, be32enc, List.foldl_cons, List.foldl_nil, BitVec.extractLsb'_toNat,
    Nat.shiftRight_eq_div_pow]
  omega

/-- `be64enc` is read back as the value (R15). -/
theorem readBigEndian_be64enc (v : BitVec 64) : readBigEndian 0 (be64enc v) = v.toNat := by
  rw [be64enc, readBigEndian_append, readBigEndian_be32enc, readBigEndian_be32enc]
  simp only [BitVec.extractLsb'_toNat, Nat.shiftRight_eq_div_pow]
  omega

/-! ### The bytes of `pad(count)` -/

section
variable (count : ByteCount)

theorem bitLength_toNat : (bitLength count).toNat = count.toNat * 8 % 2 ^ 64 := BitVec.toNat_ofNat ..

/-- 0x80 and the zero bytes are the first 1 + z bytes (R112). -/
theorem length_pad_front : ([0x80] ++ zeros (padZeros count)).length = 1 + padZeros count := by
  rw [List.length_append, zeros, List.length_replicate]; rfl

theorem pad_getElem?_zero : (pad count)[0]? = some 0x80 := rfl

variable {count}

/-- Behind 0x80 stand z zero bytes (R112, R113). -/
theorem pad_getElem?_of_le_padZeros {i : Nat} (hpos : 1 ≤ i) (hz : i ≤ padZeros count) : (pad count)[i]? = some 0x00 := by
  rw [pad, List.getElem?_append_left (by rw [length_pad_front]; omega), List.getElem?_append_right hpos]
  exact List.getElem?_replicate_of_lt (by simp; omega)

variable (count)

/-- Behind 0x80 and the zero bytes stands the length value (R115). -/
theorem drop_pad : (pad count).drop (1 + padZeros count) = be64enc (bitLength count) :=
  List.drop_left' (length_pad_front count)

/-- Byte k of the length value in `pad(count)` (R115). -/
theorem pad_getElem?_length_byte (k : Fin 8) :
    (pad count)[1 + padZeros count + k.val]? = some ((bitLength count).extractLsb' (56 - 8 * k.val) 8) := by
  rw [← List.getElem?_drop, drop_pad, be64enc_getElem?]

end

/-- Settles O20: z is `padZeros count`, and what stands behind the z zero bytes is `be64enc` of the length value. -/
theorem padLayout : Obligations.PadLayout := by
  intro count
  refine ⟨pad_length count, pad_getElem?_zero count, fun i => pad_getElem?_of_le_padZeros, ?_⟩
  calc readBigEndian 0 ((pad count).drop (1 + padZeros count))
      = readBigEndian 0 (be64enc (bitLength count)) := by rw [drop_pad]
    _ = count.toNat * 8 % 2 ^ 64 := by rw [readBigEndian_be64enc, bitLength_toNat]

/-! ### One block or two -/

/-- `pad(count)` fills up one block when it fits behind r bytes, and two when not (R113). -/
theorem pad_length_eq_ite (count : ByteCount) :
    (pad count).length = if count.toNat % 64 < 56 then 64 - count.toNat % 64 else 128 - count.toNat % 64 := by
  rw [pad_length, padZeros]
  split_ifs <;> omega

/-- Settles O21: the length of `pad(count)` on each side of r = 56, and that of the padded tail from `append_pad_length`. -/
theorem padAlignsMessage : Obligations.PadAlignsMessage := by
  intro count
  have hpad := pad_length_eq_ite count
  refine ⟨?_, fun hr => ?_, fun hr => ?_, fun cache hcache => ⟨fun hr => ?_, fun hr => ?_⟩⟩
  · split_ifs at hpad <;> omega
  · rw [hpad, if_pos hr]
  · rw [hpad, if_neg hr.not_gt]
  · rw [append_pad_length hcache, finalLength, if_pos (hcache ▸ hr)]
  · rw [append_pad_length hcache, finalLength, if_neg (hcache ▸ hr.not_gt)]

/-! ### The finalization buffer -/

section
variable {cache : List Byte} {count : ByteCount} {i : Nat}

/-- Each byte of FB is the one of R117's table: in front of r it is CACHE's, from r on it is byte i - r of `pad(count)`. -/
theorem append_pad_getElem? (hcache : cache.length = count.toNat % 64) (hi : i < finalLength cache) :
    (cache ++ pad count)[i]? = some (finalByte cache count i) := by
  have hn : cache.length + (1 + padZeros count + 8) = finalLength cache := by
    rw [← append_pad_length hcache, List.length_append, pad_length]
  simp only [finalByte]
  split_ifs with hlt heq hzero
  · simp [List.getElem?_append_left, hlt]
  · rw [List.getElem?_append_right heq.ge, heq, Nat.sub_self, pad_getElem?_zero]
  · rw [List.getElem?_append_right (by omega), pad_getElem?_of_le_padZeros (by omega) (by omega)]
  · rw [List.getElem?_append_right (by omega), ← pad_getElem?_length_byte count ⟨i - (finalLength cache - 8), by omega⟩]
    congr 1; dsimp only; omega

end

/-- Settles O22: the length is `append_pad_length`, the bytes are `append_pad_getElem?`. -/
theorem finalBufferBytes : Obligations.FinalBufferBytes :=
  fun _ _ hcache => ⟨append_pad_length hcache, fun _ => append_pad_getElem? hcache⟩

end Sys2Proof.Machine
end

section
/-! PROOF. The message schedule: its first sixteen words and its recurrence (O23), the rolling window (O24), and the
sigma functions bit by bit (O26). -/

namespace Sys2Proof.Machine

/-! ### The first sixteen words -/

/-- `be32` as a number, the first byte the most significant (R15). -/
theorem be32_toNat (b0 b1 b2 b3 : Byte) :
    (be32 b0 b1 b2 b3).toNat = b0.toNat * 2 ^ 24 + b1.toNat * 2 ^ 16 + b2.toNat * 2 ^ 8 + b3.toNat := by
  have h := readBigEndian_be32enc 0 (be32 b0 b1 b2 b3)
  rw [show be32enc (be32 b0 b1 b2 b3) = [b0, b1, b2, b3] from lanes_be32 b0 b1 b2 b3] at h
  simp only [readBigEndian, List.foldl_cons, List.foldl_nil] at h
  omega

/-- Word t of a block is made of its bytes 4t to 4t + 3 (R123). -/
theorem blockWords_getD {b : List Byte} {t : Nat} (h : 4 * t + 3 < b.length) :
    (blockWords b).getD t 0 =
      be32 (b.getD (4 * t) 0) (b.getD (4 * t + 1) 0) (b.getD (4 * t + 2) 0) (b.getD (4 * t + 3) 0) := by
  induction b using blockWords.induct generalizing t with
  | case1 b0 b1 b2 b3 rest ih =>
    cases t with
    | zero => rfl
    | succ t =>
      simp only [List.length_cons] at h
      exact ih (by omega)
  | case2 b hshort =>
    match b, hshort with
    | [], _ | [_], _ | [_, _], _ | [_, _, _], _ => simp at h
    | b0 :: b1 :: b2 :: b3 :: rest, hshort => exact absurd rfl (hshort b0 b1 b2 b3 rest)

/-! ### How the loop of R124 goes on -/

/-- The loop's last round, at the end of the list. -/
theorem extendSchedule_succ (n : Nat) (w : List Word) :
    extendSchedule (n + 1) w = extendSchedule n w ++ [nextWord (extendSchedule n w)] := by
  induction n generalizing w with
  | zero => rfl
  | succ n ih => exact ih _

theorem extendSchedule_add (m n : Nat) (w : List Word) :
    extendSchedule (m + n) w = extendSchedule n (extendSchedule m w) := by
  induction m generalizing w with
  | zero => rw [Nat.zero_add, extendSchedule]
  | succ m ih => rw [Nat.succ_add]; exact ih _

/-- A word that two runs of the loop have both reached is the same in both. -/
theorem extendSchedule_getD_congr {m n t : Nat} {w : List Word} (hm : t < w.length + m) (hn : t < w.length + n) :
    (extendSchedule m w).getD t 0 = (extendSchedule n w).getD t 0 := by
  wlog hle : m ≤ n
  · exact (this hn hm (Nat.le_of_not_le hle)).symm
  obtain ⟨k, rfl⟩ := Nat.exists_eq_add_of_le hle
  rw [extendSchedule_add, extendSchedule_getD_of_lt (w := extendSchedule m w) (by rwa [extendSchedule_length])]

section
variable {block : List Byte} (hblock : block.length = 64)
include hblock

/-- After n rounds the loop has 16 + n words (R124). -/
theorem extendSchedule_blockWords_length (n : Nat) : (extendSchedule n (blockWords block)).length = 16 + n := by
  rw [extendSchedule_length, blockWords_length (q := 16) hblock]

/-- The words of the first n rounds are the schedule's. -/
theorem extendSchedule_getD_eq_schedule {n t : Nat} (hn : t < 16 + n) (ht : t < 64) :
    (extendSchedule n (blockWords block)).getD t 0 = (schedule block).getD t 0 := by
  have hlen := blockWords_length (q := 16) hblock
  exact extendSchedule_getD_congr (by omega) (by omega)

/-- Word t of the schedule below 16 (R123). -/
theorem schedule_getD_of_lt_16 {t : Nat} (ht : t < 16) :
    (schedule block).getD t 0 =
      be32 (block.getD (4 * t) 0) (block.getD (4 * t + 1) 0) (block.getD (4 * t + 2) 0) (block.getD (4 * t + 3) 0) := by
  rw [← extendSchedule_getD_eq_schedule hblock (n := 0) ht (by omega), extendSchedule, blockWords_getD (by omega)]

/-- Word 16 + n of the schedule is the one that the loop's round n appends (R124). -/
theorem schedule_getD_16_add {n : Nat} (hn : n < 48) :
    (schedule block).getD (16 + n) 0 = nextWord (extendSchedule n (blockWords block)) := by
  rw [← extendSchedule_getD_eq_schedule hblock (n := n + 1) (by omega) (by omega), extendSchedule_succ,
    ← extendSchedule_blockWords_length hblock n]
  simp

/-- R124's recurrence, with t written 16 + n. -/
theorem nextWord_eq_schedule_recurrence {n : Nat} (hn : n < 48) :
    nextWord (extendSchedule n (blockWords block)) =
      (schedule block).getD (16 + n - 16) 0 + smallSigma0 ((schedule block).getD (16 + n - 15) 0) +
      (schedule block).getD (16 + n - 7) 0 + smallSigma1 ((schedule block).getD (16 + n - 2) 0) := by
  have hword : ∀ k < 16 + n, (extendSchedule n (blockWords block)).getD k 0 = (schedule block).getD k 0 :=
    fun k hk => extendSchedule_getD_eq_schedule hblock hk (by omega)
  rw [nextWord, extendSchedule_blockWords_length hblock, hword _ (by omega), hword _ (by omega), hword _ (by omega),
    hword _ (by omega)]

end

/-- Settles O23: a word below 16 is its four bytes, a later one is what the loop appends from the words before it. -/
theorem scheduleRecurrence : Obligations.ScheduleRecurrence := by
  intro block hblock
  refine ⟨schedule_length hblock, fun t ht => ?_, fun t h16 ht => ?_⟩
  · rw [schedule_getD_of_lt_16 hblock ht, be32_toNat]
  · obtain ⟨n, rfl⟩ := Nat.exists_eq_add_of_le h16
    rw [schedule_getD_16_add hblock (by omega), nextWord_eq_schedule_recurrence hblock (by omega)]

/-! ### The rolling window -/

/-- Shifting the window of the last 16 words is appending the loop's next word (R125). -/
theorem windowShift_drop {w : List Word} {t : Nat} (h : w.length = 16 + t) :
    windowShift (w.drop t) = (w ++ [nextWord w]).drop (t + 1) := by
  have hnext : nextWord w = w.getD t 0 + smallSigma0 (w.getD (t + 1) 0) + w.getD (t + 9) 0
      + smallSigma1 (w.getD (t + 14) 0) := by
    rw [nextWord, h]; congr <;> omega
  rw [List.drop_append_of_le_length (by omega), windowShift, List.tail_drop, hnext]
  simp [List.getD_eq_getElem?_getD, List.getElem?_drop]

/-- The window of round t is the last 16 of the words that t rounds of the loop give. -/
theorem rollingWindow_eq_drop {block : List Byte} (hblock : block.length = 64) (t : Nat) :
    rollingWindow block t = (extendSchedule t (blockWords block)).drop t := by
  induction t with
  | zero => rfl
  | succ t ih =>
    rw [rollingWindow, ih, windowShift_drop (extendSchedule_blockWords_length hblock t), extendSchedule_succ]

/-- Settles O24: the window's first word is word t of the loop after t rounds, which is the schedule's. -/
theorem rollingWindowShowsSchedule : Obligations.RollingWindowShowsSchedule := by
  intro block hblock t ht
  rw [rollingWindow_eq_drop hblock]
  constructor
  · rw [List.length_drop, extendSchedule_blockWords_length hblock, Nat.add_sub_cancel]
  · rw [← extendSchedule_getD_eq_schedule hblock (n := t) (by omega) ht]
    simp [List.getD_eq_getElem?_getD]

/-! ### The sigma functions -/

section
variable (x : Word) {i n : Nat}

/-- A right rotation takes bit i + n, modulo 32, to bit i (R14). -/
theorem rotr_getLsbD (hi : i < 32) (hpos : 0 < n) (hn : n < 32) :
    (rotr x n).getLsbD i = x.getLsbD ((i + n) % 32) := by
  rw [rotr, BitVec.getLsbD_or, BitVec.getLsbD_ushiftRight, BitVec.getLsbD_shiftLeft]
  by_cases hlow : i + n < 32
  · -- the bit comes from the right shift
    have hleft : i < 32 - n := by omega
    simp [Nat.mod_eq_of_lt hlow, hleft, Nat.add_comm]
  · -- the right shift has brought in a zero: the bit comes from the left shift
    have hmod : (i + n) % 32 = i - (32 - n) := by omega
    have hleft : ¬ i < 32 - n := by omega
    simp [hmod, hleft, hi, BitVec.getLsbD_of_ge x (n + i) (by omega)]

/-- A logical right shift brings in zeros where a rotation brings in the low bits. -/
theorem ushiftRight_getLsbD (n : Nat) : (x >>> n).getLsbD i = (decide (i + n < 32) && x.getLsbD (i + n)) := by
  rw [BitVec.getLsbD_ushiftRight, Nat.add_comm]
  by_cases h : i + n < 32
  · simp [h]
  · simp [h, BitVec.getLsbD_of_ge x (i + n) (by omega)]

theorem smallSigma0_getLsbD (hi : i < 32) : (smallSigma0 x).getLsbD i =
    ((x.getLsbD ((i + 7) % 32) ^^ x.getLsbD ((i + 18) % 32)) ^^ (decide (i + 3 < 32) && x.getLsbD (i + 3))) := by
  simp only [smallSigma0, BitVec.getLsbD_xor, rotr_getLsbD x hi, ushiftRight_getLsbD, Nat.reduceLT]

theorem smallSigma1_getLsbD (hi : i < 32) : (smallSigma1 x).getLsbD i =
    ((x.getLsbD ((i + 17) % 32) ^^ x.getLsbD ((i + 19) % 32)) ^^ (decide (i + 10 < 32) && x.getLsbD (i + 10))) := by
  simp only [smallSigma1, BitVec.getLsbD_xor, rotr_getLsbD x hi, ushiftRight_getLsbD, Nat.reduceLT]

theorem bigSigma0_getLsbD (hi : i < 32) : (bigSigma0 x).getLsbD i =
    ((x.getLsbD ((i + 2) % 32) ^^ x.getLsbD ((i + 13) % 32)) ^^ x.getLsbD ((i + 22) % 32)) := by
  simp only [bigSigma0, BitVec.getLsbD_xor, rotr_getLsbD x hi, Nat.reduceLT]

theorem bigSigma1_getLsbD (hi : i < 32) : (bigSigma1 x).getLsbD i =
    ((x.getLsbD ((i + 6) % 32) ^^ x.getLsbD ((i + 11) % 32)) ^^ x.getLsbD ((i + 25) % 32)) := by
  simp only [bigSigma1, BitVec.getLsbD_xor, rotr_getLsbD x hi, Nat.reduceLT]

end

/-- Settles O26: the rules' corner cases and examples are evaluated, the bits are those of the rotations and the shift. -/
theorem sigmaFunctionsByBit : Obligations.SigmaFunctionsByBit := by
  refine ⟨by decide, by decide, by decide, by decide, by decide, by decide, by decide, by decide, by decide, by decide,
    by decide, by decide, fun x i hi => ⟨fun n => rotr_getLsbD x hi, ?_⟩⟩
  exact ⟨smallSigma0_getLsbD x hi, smallSigma1_getLsbD x hi, bigSigma0_getLsbD x hi, bigSigma1_getLsbD x hi⟩

end Sys2Proof.Machine
end

section
/-! PROOF. The compression function's parts: Choose and Majority bit by bit (O25), and the worked compressions (O29). -/

namespace Sys2Proof.Machine

/-! ### Choose and Majority -/

/-- Choose takes f's bit where e's is 1 and g's where it is 0 (R133). -/
theorem choose_getLsbD (e f g : Word) {i : Nat} (hi : i < 32) :
    (choose e f g).getLsbD i = if e.getLsbD i then f.getLsbD i else g.getLsbD i := by
  rw [choose, BitVec.getLsbD_xor, BitVec.getLsbD_and, BitVec.getLsbD_and, BitVec.getLsbD_not]
  cases e.getLsbD i with
  | true => simp
  | false => simp [hi]

/-- A bit of Majority is the exclusive or of the three pairs' conjunctions (R134). -/
theorem majority_getLsbD (a b c : Word) (i : Nat) : (majority a b c).getLsbD i =
    (((a.getLsbD i && b.getLsbD i) ^^ (a.getLsbD i && c.getLsbD i)) ^^ (b.getLsbD i && c.getLsbD i)) := by
  simp only [majority, BitVec.getLsbD_xor, BitVec.getLsbD_and]

/-- The exclusive or of the three pairs' conjunctions is 1 exactly when two or more of the bits are. -/
theorem xor_and_pairs_iff_two_le : ∀ x y z : Bool,
    (((x && y) ^^ (x && z)) ^^ (y && z)) = true ↔ 2 ≤ x.toNat + y.toNat + z.toNat := by decide

/-- Settles O25: the bits of Choose by the bit of e, those of Majority by the eight cases of three bits. -/
theorem chooseAndMajorityByBit : Obligations.ChooseAndMajorityByBit := by
  refine ⟨fun e f g i hi => choose_getLsbD e f g hi, fun a b c i _ => ?_, by decide, by decide⟩
  rw [majority_getLsbD]
  exact xor_and_pairs_iff_two_le _ _ _

/-! ### The worked compressions -/

/-- Settles O29: the kernel evaluates the two compressions. -/
theorem compressExamples : Obligations.CompressExamples := by
  constructor
  · decide +kernel
  · decide +kernel

end Sys2Proof.Machine
end

section
/-! PROOF. The engine's step register by register, and with it the engine's turns (O15, O16, O17), the moves of PHASE (O18) and
the end of every BUSY period (O19). -/

namespace Sys2Proof.Machine

/-! ### What the engine's step leaves in each register -/

section
variable {d : Device}

/-- The engine raises no error (R161 to R163). -/
@[simp] theorem Device.engineStep_err : d.engineStep.err = d.err := by
  cases d.engineStep_cases with
  | idle _ dev | feed _ _ _ dev | firstFinal _ _ _ _ dev | lastFinal _ _ _ _ dev => rw [dev]

/-- The engine never writes FB (R44). -/
@[simp] theorem Device.engineStep_fb : d.engineStep.fb = d.fb := by
  cases d.engineStep_cases with
  | idle _ dev | feed _ _ _ dev | firstFinal _ _ _ _ dev | lastFinal _ _ _ _ dev => rw [dev]

/-- The moves of the engine in R160's table. -/
theorem Device.engineStep_phase (d : Device) :
    d.engineStep.phase = if d.phase = .fin1 ∧ d.fb.length = 128 then .fin2 else .idle := by
  cases d.engineStep_cases with
  | idle phase dev | feed _ _ phase dev => simp [dev, phase]
  | firstFinal _ _ phase two dev => simp [dev, phase, two]
  | lastFinal _ _ _ due dev => rcases due with ⟨phase, one, -⟩ | ⟨phase, -⟩ <;> simp [*]

/-- H is written in COMP alone, with the compression of the first 64 cached bytes (R161). -/
theorem Device.engineStep_hash (d : Device) :
    d.engineStep.hash = if d.phase = .comp then compress d.hash (d.cache.take 64) else d.hash := by
  cases d.engineStep_cases with
  | idle phase dev | feed _ _ phase dev | firstFinal _ _ phase _ dev => simp [dev, phase]
  | lastFinal _ _ _ due dev => rcases due with ⟨phase, -⟩ | ⟨phase, -⟩ <;> simp [dev, phase]

/-- CACHE is written in COMP alone, which takes its first 64 bytes off (R161). -/
theorem Device.engineStep_cache (d : Device) :
    d.engineStep.cache = if d.phase = .comp then d.cache.drop 64 else d.cache := by
  cases d.engineStep_cases with
  | idle phase dev | feed _ _ phase dev | firstFinal _ _ phase _ dev => simp [dev, phase]
  | lastFinal _ _ _ due dev => rcases due with ⟨phase, -⟩ | ⟨phase, -⟩ <;> simp [dev, phase]

/-- HF takes the first final block in FIN1, the second in FIN2, and is left alone in COMP and IDLE (R44). -/
theorem Device.engineStep_hf (d : Device) :
    d.engineStep.hf =
      if d.phase = .fin1 then compress d.hf (d.fb.take 64)
      else if d.phase = .fin2 then compress d.hf ((d.fb.drop 64).take 64) else d.hf := by
  cases d.engineStep_cases with
  | idle phase dev | feed _ _ phase dev | firstFinal _ _ phase _ dev => simp [dev, phase]
  | lastFinal _ _ _ due dev => rcases due with ⟨phase, -, rfl⟩ | ⟨phase, rfl⟩ <;> simp [dev, phase]

/-- DVALID is set by the step that compresses the last final block, and by no other (R162, R163). -/
theorem Device.engineStep_dvalid (d : Device) :
    d.engineStep.dvalid = if (d.phase = .fin1 ∧ d.fb.length ≠ 128) ∨ d.phase = .fin2 then true else d.dvalid := by
  cases d.engineStep_cases with
  | idle phase dev | feed _ _ phase dev | firstFinal _ _ phase two dev => simp [*]
  | lastFinal _ _ _ due dev => rcases due with ⟨phase, one, -⟩ | ⟨phase, -⟩ <;> simp [*]

/-- That step publishes the HF that it writes (R162, R163). -/
theorem Device.engineStep_digest (d : Device) :
    d.engineStep.digest =
      if (d.phase = .fin1 ∧ d.fb.length ≠ 128) ∨ d.phase = .fin2 then d.engineStep.hf else d.digest := by
  cases d.engineStep_cases with
  | idle phase dev | feed _ _ phase dev | firstFinal _ _ phase two dev => simp [*]
  | lastFinal _ _ _ due dev => rcases due with ⟨phase, one, -⟩ | ⟨phase, -⟩ <;> simp [*]

/-! ### The block once every step due is taken -/

theorem Device.engineStep_phase_ne_comp : d.engineStep.phase ≠ .comp := by
  rw [Device.engineStep_phase]; split <;> simp

/-- Two steps always end at rest (R169). -/
@[simp] theorem Device.settle_phase : d.settle.phase = .idle := by
  rw [Device.settle, Device.engineStep_phase d.engineStep, if_neg]
  rintro ⟨hfin1, -⟩
  rw [Device.engineStep_phase] at hfin1
  split at hfin1 <;> cases hfin1

@[simp] theorem Device.settle_count : d.settle.count = d.count := by simp [Device.settle]

@[simp] theorem Device.settle_err : d.settle.err = d.err := by simp [Device.settle]

/-- The second step writes neither H nor CACHE. -/
theorem Device.settle_hash : d.settle.hash = d.engineStep.hash := by
  rw [Device.settle, Device.engineStep_hash d.engineStep, if_neg Device.engineStep_phase_ne_comp]

theorem Device.settle_cache : d.settle.cache = d.engineStep.cache := by
  rw [Device.settle, Device.engineStep_cache d.engineStep, if_neg Device.engineStep_phase_ne_comp]

/-- The digest that a DIGEST in FIN1 completes with, by the length of FB (R162, R163). -/
def Device.finalHash (d : Device) : HashValue :=
  if d.fb.length = 128 then compress (compress d.hf (d.fb.take 64)) ((d.fb.drop 64).take 64)
  else compress d.hf (d.fb.take 64)

theorem Device.settle_digest_of_fin1 (hp : d.phase = .fin1) : d.settle.digest = d.finalHash := by
  by_cases two : d.fb.length = 128
  · simp [Device.settle, Device.engineStep_digest, Device.engineStep_hf, Device.engineStep_phase, Device.finalHash, hp, two]
  · simp [Device.settle, Device.engineStep_digest, Device.engineStep_hf, Device.engineStep_phase, Device.finalHash, hp, two]

theorem Device.settle_dvalid_of_fin1 (hp : d.phase = .fin1) : d.settle.dvalid = true := by
  by_cases two : d.fb.length = 128
  · simp [Device.settle, Device.engineStep_dvalid, Device.engineStep_phase, hp, two]
  · simp [Device.settle, Device.engineStep_dvalid, Device.engineStep_phase, hp, two]

end

/-! ### The engine's turns -/

/-- Out of reset the engine's turn is the engine's step (R160). -/
theorem State.engineTurn_of_released {s : State} (hseen : s.resetSeen = true) (hrst : s.rstN = true) :
    s.engineTurn = .next (s.setDev s.dev.engineStep) := by
  rw [State.engineTurn, if_pos hseen, if_pos hrst]

/-- Settles O15, register by register. -/
theorem engineCompletesFeed : Obligations.EngineCompletesFeed := by
  intro s hseen hrst hp
  refine ⟨_, State.engineTurn_of_released hseen hrst, ?_⟩
  simp [Device.engineStep_hash, Device.engineStep_cache, Device.engineStep_phase, Device.engineStep_dvalid,
    Device.engineStep_digest, Device.engineStep_hf, hp]

/-- Settles O16, register by register. -/
theorem engineStepsFin1 : Obligations.EngineStepsFin1 := by
  intro s hseen hrst hp
  refine ⟨_, State.engineTurn_of_released hseen hrst, ?_⟩
  simp +contextual [Device.engineStep_hash, Device.engineStep_cache, Device.engineStep_phase, Device.engineStep_dvalid,
    Device.engineStep_digest, Device.engineStep_hf, hp]

/-- Settles O17, register by register. -/
theorem engineStepsFin2 : Obligations.EngineStepsFin2 := by
  intro s hseen hrst hp
  refine ⟨_, State.engineTurn_of_released hseen hrst, ?_⟩
  simp [Device.engineStep_hash, Device.engineStep_cache, Device.engineStep_phase, Device.engineStep_dvalid,
    Device.engineStep_digest, Device.engineStep_hf, hp]

/-! ### The moves of PHASE -/

/-- An accepted command leaves PHASE alone, fills a block (FEED), or starts a finalization (DIGEST). -/
theorem acceptOf_phase_cases (i : Instr) (d : Device) :
    (acceptOf i d).phase = d.phase ∨ ((acceptOf i d).phase = .comp ∧ 64 ≤ (acceptOf i d).cache.length) ∨
      (acceptOf i d).phase = .fin1 := by
  cases i with
  | nop | init | clrerr => exact .inl rfl
  | digest => exact .inr (.inr rfl)
  | feed len =>
    simp only [acceptOf, Device.acceptFeed_phase, Device.acceptFeed_cache]
    split_ifs with hfull
    · exact .inr (.inl ⟨rfl, hfull⟩)
    · exact .inl rfl

/-- Settles O18, by the cases of a step: only an accepted command, the engine and reset move PHASE. -/
theorem phaseMovesOnlyAsTabled : Obligations.PhaseMovesOnlyAsTabled := by
  intro s t hstep hp
  cases (step_cases hstep).1 with
  | quiet dev _ _ | dataIn _ _ _ _ _ dev | busy _ _ _ _ dev | rejected _ _ _ _ _ _ _ _ dev => exact .inl (by simp [dev])
  | accepted v i turn _ _ phase _ _ dev =>
    rw [dev]
    rcases acceptOf_phase_cases i s.dev with hsame | hfull | hfin1
    · exact .inl hsame
    · exact .inr (.inl ⟨turn, phase, hfull⟩)
    · exact .inr (.inr (.inl ⟨turn, phase, hfin1⟩))
  | engine turn _ _ dev =>
    rw [dev, Device.engineStep_phase]
    cases phase : s.dev.phase with
    | idle | comp | fin2 => simp [turn]
    | fin1 => by_cases two : s.dev.fb.length = 128 <;> simp [turn, two]
  | reset pin _ dev => simp [pin, dev, Device.reset]
  | powerUp d turn _ _ _ => exact absurd turn (hp d)

/-! ### The end of a BUSY period -/

section
variable (d : Device)

/-- Every engine step takes one compression off the work due (R170). -/
theorem Device.compressionsDue_engineStep : d.engineStep.compressionsDue = d.compressionsDue - 1 := by
  rw [Device.compressionsDue, Device.engineStep_phase, Device.compressionsDue]
  cases phase : d.phase with
  | idle | comp | fin2 => simp
  | fin1 => by_cases two : d.fb.length = 128 <;> simp [two]

theorem Device.compressionsDue_le_two : d.compressionsDue ≤ 2 := by
  unfold Device.compressionsDue
  cases d.phase with
  | idle | comp | fin2 => simp only; omega
  | fin1 => simp only; split <;> omega

/-- Work is due exactly while BUSY = 1 (R29). -/
theorem Device.compressionsDue_eq_zero_iff : d.compressionsDue = 0 ↔ d.busy = false := by
  rw [Device.busy_eq_false_iff, Device.compressionsDue]
  cases d.phase with
  | idle | comp | fin2 => simp
  | fin1 => by_cases two : d.fb.length = 128 <;> simp [two]

end

/-- With no turn scheduled a busy machine steps its engine (`State.defaultTurn`). -/
theorem step_of_busy {s : State} (hseen : s.resetSeen = true) (hrst : s.rstN = true) (hsched : s.schedule = [])
    (hbusy : s.dev.busy = true) : step s = .next (s.setDev s.dev.engineStep) := by
  have hpop : s.popTurn = (.engine, s) := by simp [State.popTurn, hsched, State.defaultTurn, hseen, hbusy]
  rw [step, hpop]
  exact State.engineTurn_of_released hseen hrst

/-- Left to itself the machine takes as many steps as compressions are due, and is at rest then. -/
theorem run_compressionsDue {s : State} {n : Nat} (hseen : s.resetSeen = true) (hrst : s.rstN = true)
    (hsched : s.schedule = []) (hdue : s.dev.compressionsDue = n) :
    ∃ t, Sys2Proof.core.run n s = .next t ∧ t.dev.busy = false ∧ t.host = s.host := by
  induction n generalizing s with
  | zero => exact ⟨s, rfl, (s.dev.compressionsDue_eq_zero_iff).1 hdue, rfl⟩
  | succ n ih =>
    have hbusy : s.dev.busy = true := by
      rw [← Bool.not_eq_false, ← s.dev.compressionsDue_eq_zero_iff]; omega
    rw [core_run_succ n (step_of_busy hseen hrst hsched hbusy)]
    exact ih (s := s.setDev s.dev.engineStep) hseen hrst hsched (by
      rw [State.setDev_dev, Device.compressionsDue_engineStep, hdue, Nat.add_sub_cancel])

/-- Settles O19: the run takes as many steps as compressions are due. -/
theorem everyBusyPeriodEnds : Obligations.EveryBusyPeriodEnds := by
  refine ⟨fun s hseen hrst hsched hbusy => ?_,
    fun d => ⟨d.compressionsDue_engineStep, d.compressionsDue_le_two, d.compressionsDue_eq_zero_iff⟩⟩
  have hpos : s.dev.compressionsDue ≠ 0 := fun h => by simp [s.dev.compressionsDue_eq_zero_iff.1 h] at hbusy
  obtain ⟨t, hrun, hrest, hhost⟩ := run_compressionsDue hseen hrst hsched rfl
  exact ⟨_, t, Nat.one_le_iff_ne_zero.2 hpos, s.dev.compressionsDue_le_two, hrun, hrest, hhost⟩

end Sys2Proof.Machine
end

section
/-! PROOF. The commands' effects at rest, written out: NOP, CLRERR (O6, O11), and FEED with its corner cases (O8, O9). -/

namespace Sys2Proof.Machine

/-- At rest a command is accepted (R151). -/
theorem exec_rest (i : Instr) {s : State} (hp : s.dev.phase = .idle) :
    exec i s = .next (s.setDev (acceptOf i s.dev)) := by
  rw [exec_eq_present, State.present_rest _ hp]

/-- While the engine works a command records BUSY where ERR is 0, and does nothing else (R184). -/
theorem exec_busy (i : Instr) {s : State} (hp : s.dev.phase ≠ .idle) :
    exec i s = .next (s.setDev { s.dev with err := if s.dev.err = 0 then 1 else s.dev.err }) := by
  rw [exec_eq_present, State.present_busy _ hp, Device.raise_eq]; rfl

/-- Settles O6: the acceptance of NOP is the identity. -/
theorem nopHasNoEffect : Obligations.NopHasNoEffect := fun _ => ⟨exec_rest .nop, exec_busy .nop⟩

/-- Settles O11: the acceptance of CLRERR is the clear of ERR. -/
theorem clrerrClearsErr : Obligations.ClrerrClearsErr := fun _ => ⟨exec_rest .clrerr, exec_busy .clrerr⟩

/-! ### FEED -/

section
variable {d : Device}

/-- FEED's acceptance at rest, as one update of the block (R155). -/
theorem Device.acceptFeed_eq (len : BitVec 2) (hp : d.phase = .idle) :
    Device.acceptFeed len d = { d with
      cache := d.cache ++ feedBytes len d.dataIn
      count := BitVec.ofNat 64 (d.count.toNat + feedCount len)
      dvalid := false
      err := if 2 ^ 61 ≤ d.count.toNat + feedCount len ∧ d.err = 0 then 4 else d.err
      phase := if 64 ≤ d.cache.length + feedCount len then .comp else .idle } := by
  have hcount : d.count + BitVec.ofNat 64 (feedCount len) = BitVec.ofNat 64 (d.count.toNat + feedCount len) := by
    rw [BitVec.ofNat_add, BitVec.ofNat_toNat, BitVec.setWidth_eq]
  have hlen : (d.cache ++ feedBytes len d.dataIn).length = d.cache.length + feedCount len := by
    rw [List.length_append, feedBytes_length, feedCount]
  simp only [Device.acceptFeed, hcount, hlen, hp, Device.raise_eq, Device.lengthExceeded, decide_eq_true_eq, ite_and]
  split <;> rfl

/-- A FEED that fills no block leaves the block at rest (R155). -/
theorem Device.acceptFeed_rest {len : BitVec 2} (hp : d.phase = .idle) (hroom : d.cache.length + feedCount len < 64) :
    (Device.acceptFeed len d).phase = .idle := by
  rw [Device.acceptFeed_eq len hp]
  exact if_neg hroom.not_ge

/-- A FEED that starts a compression has filled a block (R155). -/
theorem Device.acceptFeed_full {len : BitVec 2} (hp : d.phase = .idle) (hcomp : (Device.acceptFeed len d).phase = .comp) :
    64 ≤ (Device.acceptFeed len d).cache.length := by
  by_contra hroom
  rw [Device.acceptFeed_phase, ← Device.acceptFeed_cache, if_neg hroom, hp] at hcomp
  cases hcomp

/-- A FEED of one byte at COUNT = 2^64 - 1 wraps COUNT to 0, and its unwrapped sum is beyond 2^61 (R155, R156). -/
theorem Device.acceptFeed_wrap (hp : d.phase = .idle) (hcount : d.count.toNat = 2 ^ 64 - 1) :
    (Device.acceptFeed 0 d).count = 0 ∧ (d.err = 0 → (Device.acceptFeed 0 d).err = 4) := by
  rw [Device.acceptFeed_eq 0 hp, hcount]
  exact ⟨rfl, fun herr => if_pos ⟨by decide, herr⟩⟩

/-- From at most 63 cached bytes FEED goes to at most 67 (R155). -/
theorem Device.acceptFeed_cache_length_le (len : BitVec 2) (h : d.cache.length ≤ 63) :
    (Device.acceptFeed len d).cache.length ≤ 67 := by
  rw [Device.acceptFeed_cache, List.length_append, feedBytes_length]; omega

/-- FEED starts at most one compression (R170). -/
theorem Device.compressionsDue_acceptFeed_le (len : BitVec 2) (hp : d.phase = .idle) :
    (Device.acceptFeed len d).compressionsDue ≤ 1 := by
  rw [Device.compressionsDue, Device.acceptFeed_phase, hp]
  split_ifs <;> simp

/-- The engine's step in COMP ends at rest, with what lies beyond the first 64 cached bytes. -/
theorem Device.engineStep_of_comp_rest (hp : d.phase = .comp) :
    d.engineStep.phase = .idle ∧ d.engineStep.cache = d.cache.drop 64 := by
  simp [Device.engineStep_phase, Device.engineStep_cache, hp]

end

/-- Settles O8: the next state is `Device.acceptFeed_eq`'s, and the bounds are the acceptance's. -/
theorem feedAppendsBytes : Obligations.FeedAppendsBytes := by
  intro len s hp x n bs t
  have hdev : t.dev = Device.acceptFeed len s.dev := (Device.acceptFeed_eq len hp).symm
  have ht : t = s.setDev (Device.acceptFeed len s.dev) := congrArg s.setDev hdev
  refine ⟨by rw [ht]; exact exec_rest (.feed len) hp, fun hcache => ?_⟩
  rw [hdev]
  have hlen := Device.acceptFeed_cache_length_le len hcache
  refine ⟨hlen, Device.compressionsDue_acceptFeed_le len hp, fun hcomp => ?_⟩
  obtain ⟨hidle, hdrop⟩ := Device.engineStep_of_comp_rest hcomp
  exact ⟨hidle, by rw [hdrop, List.length_drop]; omega⟩

/-- The lanes are taken from the top, and the unused ones are ignored (R94, R156). -/
theorem feedBytes_one_of_0x61FFFFFF : feedBytes 0 0x61FFFFFF = [0x61] := by decide

theorem feedBytes_abc : feedBytes 2 0x61626300 = [0x61, 0x62, 0x63] := by decide

section
variable {s : State} (hp : s.dev.phase = .idle)
include hp

/-- FEED 4 from 60 cached bytes on fills a block: the engine compresses the first 64 bytes held and leaves the others, in
order (R156). -/
theorem exec_feed4_full (hfull : 60 ≤ s.dev.cache.length) :
    ∃ t : State, exec (.feed 3) s = .next t ∧ t.dev.cache.length = s.dev.cache.length + 4 ∧ t.dev.phase = .comp ∧
      t.dev.settle.hash = compress s.dev.hash ((s.dev.cache ++ lanes s.dev.dataIn).take 64) ∧
      t.dev.settle.cache = (s.dev.cache ++ lanes s.dev.dataIn).drop 64 := by
  have hcache : (Device.acceptFeed 3 s.dev).cache = s.dev.cache ++ lanes s.dev.dataIn := rfl
  have hlen : (s.dev.cache ++ lanes s.dev.dataIn).length = s.dev.cache.length + 4 := List.length_append
  have hcomp : (Device.acceptFeed 3 s.dev).phase = .comp := by
    rw [Device.acceptFeed_phase, ← Device.acceptFeed_cache, hcache, hlen, if_pos (by omega)]
  refine ⟨_, exec_rest (.feed 3) hp, hlen, hcomp, ?_, ?_⟩
  · rw [State.setDev_dev, acceptOf, Device.settle_hash, Device.engineStep_hash, if_pos hcomp, Device.acceptFeed_hash, hcache]
  · rw [State.setDev_dev, acceptOf, Device.settle_cache, Device.engineStep_cache, if_pos hcomp, hcache]

/-- After INIT the block holds the three bytes of FEED 3 of "abc", at rest (R156, R157). -/
theorem exec_init_feed_abc :
    ∃ t u : State, exec .init s = .next t ∧ exec (.feed 2) (t.setDev { t.dev with dataIn := 0x61626300 }) = .next u ∧
      u.dev.phase = .idle ∧ u.dev.hash = iv ∧ u.dev.cache = [0x61, 0x62, 0x63] ∧ u.dev.count = 3 := by
  refine ⟨_, _, exec_rest .init hp, exec_rest (.feed 2) hp, hp, Device.acceptFeed_hash _ _, ?_, ?_⟩
  · exact feedBytes_abc
  · exact Device.acceptFeed_count _ _

end

/-- Settles O9, case by case: the bytes held after FEED, and which of them are beyond the first 64. -/
theorem feedCornerCases : Obligations.FeedCornerCases := by
  intro s hp
  refine ⟨fun h60 => ?_, fun h63 => ?_, fun h59 => ?_, fun hcount => ?_, ?_, ?_⟩
  · obtain ⟨t, hexec, hlen, hcomp, -, hcache⟩ := exec_feed4_full hp h60.ge
    refine ⟨t, hexec, by rw [hlen, h60], hcomp, ?_⟩
    rw [hcache, List.drop_eq_nil_iff, List.length_append, h60]
    rfl
  · obtain ⟨t, hexec, hlen, hcomp, hhash, hcache⟩ := exec_feed4_full hp (by omega)
    refine ⟨t, hexec, by rw [hlen, h63], hcomp, ?_, ?_⟩
    · rw [hhash, List.take_append, h63, List.take_of_length_le (by omega)]; rfl
    · rw [hcache, List.drop_append, h63, List.drop_eq_nil_of_le (by omega)]; rfl
  · refine ⟨_, exec_rest (.feed 3) hp, ?_, ?_⟩
    · rw [State.setDev_dev, acceptOf, Device.acceptFeed_cache, List.length_append, feedBytes_length, h59]; rfl
    · exact (Device.busy_eq_false_iff _).2 (Device.acceptFeed_rest hp (by rw [h59]; decide))
  · exact ⟨_, exec_rest (.feed 0) hp, Device.acceptFeed_wrap hp hcount⟩
  · refine ⟨_, exec_rest (.feed 0) (s := s.setDev { s.dev with dataIn := 0x61FFFFFF }) hp, ?_⟩
    exact congrArg (s.dev.cache ++ ·) feedBytes_one_of_0x61FFFFFF
  · obtain ⟨t, u, hinit, hfeed, hrest, -, hcache, hcount⟩ := exec_init_feed_abc hp
    exact ⟨t, u, hinit, hfeed, hcache, hcount, by rw [u.dev.busRead_bufLen, hcache]; rfl,
      (Device.busy_eq_false_iff _).2 hrest⟩

end Sys2Proof.Machine
end

section
/-! PROOF. The message that the block carries: each thing that a step can do to the block makes of it what R165 says, and so
every step does (O56); at rest (O51 to O55) it is the message that the block holds, whose SHA256 a DIGEST completes with. -/

namespace Sys2Proof.Machine

/-! ### What the block carries -/

section
variable {d : Device} {m : List Byte}

theorem Device.blocksDone_of_comp (hp : d.phase = .comp) (m : List Byte) : d.blocksDone m = m.length / 64 - 1 := by
  rw [Device.blocksDone, hp]

theorem Device.blocksDone_of_ne_comp (hp : d.phase ≠ .comp) (m : List Byte) : d.blocksDone m = m.length / 64 := by
  unfold Device.blocksDone
  cases phase : d.phase with
  | idle | fin1 | fin2 => rfl
  | comp => exact absurd phase hp

/-- To hold a message is to carry it at rest (R165). -/
theorem Device.holds_iff : d.Holds m ↔ d.phase = .idle ∧ d.Carries m := by
  have hdone (hp : d.phase = .idle) := Device.blocksDone_of_ne_comp (by simp [hp] : d.phase ≠ .comp) m
  constructor
  · rintro ⟨hp, hhash, hcache, hcount⟩
    exact ⟨hp, by rwa [hdone hp], by rwa [hdone hp], hcount⟩
  · rintro ⟨hp, hhash, hcache, hcount⟩
    exact ⟨hp, hdone hp ▸ hhash, hdone hp ▸ hcache, hcount⟩

/-- What a block carries is a matter of PHASE, H, CACHE and COUNT alone. -/
theorem Device.Carries.congr {e : Device} (h : d.Carries m) (hphase : e.phase = d.phase) (hhash : e.hash = d.hash)
    (hcache : e.cache = d.cache) (hcount : e.count = d.count) : e.Carries m := by
  have hdone : e.blocksDone m = d.blocksDone m := by rw [Device.blocksDone, Device.blocksDone, hphase]
  exact ⟨by rw [hhash, hdone, h.hash], by rw [hcache, hdone, h.cache], hcount.trans h.count⟩

/-- The empty message is carried at the start (R154, R202). -/
theorem Device.carries_nil (hhash : d.hash = iv) (hcache : d.cache = []) (hcount : d.count = 0) : d.Carries [] := by
  have hdone : d.blocksDone [] = 0 := by unfold Device.blocksDone; split <;> rfl
  exact ⟨by rw [hdone, hhash, hashBlocks], by rw [hcache, List.drop_nil], hcount⟩

theorem Device.AtResetValues.carries_nil (h : d.AtResetValues) : d.Carries [] :=
  Device.carries_nil h.hash h.cache h.count

theorem Device.Carries.setDataIn (h : d.Carries m) (v : Word) : Device.Carries { d with dataIn := v } m :=
  h.congr rfl rfl rfl rfl

theorem Device.Carries.raise (h : d.Carries m) (c : ErrCode) : (d.raise c).Carries m :=
  h.congr (by simp) (by simp) (by simp) (by simp)

/-! ### Commands -/

/-- The blocks that FEED finds folded are those that it leaves folded: the one that it may fill is COMP's to fold (R155). -/
theorem Device.blocksDone_acceptFeed (len : BitVec 2) (hp : d.phase = .idle)
    (hcache : d.cache = m.drop (64 * (m.length / 64))) :
    (Device.acceptFeed len d).blocksDone (m ++ feedBytes len d.dataIn) = m.length / 64 := by
  have hn := len.isLt
  have hfed : (m ++ feedBytes len d.dataIn).length = m.length + (len.toNat + 1) := by
    rw [List.length_append, feedBytes_length]
  have hphase : (Device.acceptFeed len d).phase = if 64 ≤ m.length % 64 + (len.toNat + 1) then .comp else .idle := by
    rw [Device.acceptFeed_phase, List.length_append, feedBytes_length, hcache, List.length_drop, hp,
      show m.length - 64 * (m.length / 64) = m.length % 64 by omega]
  split_ifs at hphase with hfull
  · rw [Device.blocksDone_of_comp hphase, hfed]; omega
  · rw [Device.blocksDone_of_ne_comp (by rw [hphase]; decide), hfed]; omega

/-- FEED at rest appends its bytes to the message (R155, R165). -/
theorem Device.Carries.acceptFeed (h : d.Carries m) (hp : d.phase = .idle) (len : BitVec 2) :
    (Device.acceptFeed len d).Carries (m ++ feedBytes len d.dataIn) := by
  obtain ⟨-, hhash, hcache, hcount⟩ := Device.holds_iff.2 ⟨hp, h⟩
  have hdone := Device.blocksDone_acceptFeed len hp hcache
  have hle : 64 * (m.length / 64) ≤ m.length := Nat.mul_div_le ..
  refine ⟨?_, ?_, ?_⟩
  · rw [Device.acceptFeed_hash, hdone, hashBlocks_append hle, hhash]
  · rw [Device.acceptFeed_cache, hdone, List.drop_append_of_le_length hle, hcache]
  · rw [Device.acceptFeed_count, hcount, List.length_append, feedBytes_length, BitVec.ofNat_add m.length]; rfl

theorem Device.Carries.acceptDigest (h : d.Carries m) (hp : d.phase = .idle) : d.acceptDigest.Carries m := by
  obtain ⟨-, hhash, hcache, hcount⟩ := Device.holds_iff.2 ⟨hp, h⟩
  exact ⟨hhash, hcache, hcount⟩

/-- An accepted command makes of the message what `messageOf` says. -/
theorem Device.Carries.acceptOf (h : d.Carries m) (hp : d.phase = .idle) (i : Instr) :
    (acceptOf i d).Carries (messageOf i d.dataIn m) :=
  match i with
  | .nop => h
  | .init => Device.carries_nil rfl rfl rfl
  | .feed len => h.acceptFeed hp len
  | .digest => h.acceptDigest hp
  | .clrerr => h.congr rfl rfl rfl rfl

/-! ### The engine -/

/-- The engine's step leaves the message alone: in COMP it folds one more of its blocks into H (R161, R165). -/
theorem Device.Carries.engineStep (h : d.Carries m) (hfull : d.phase = .comp → 64 ≤ d.cache.length) :
    d.engineStep.Carries m := by
  have hdone := Device.blocksDone_of_ne_comp (d := d.engineStep) Device.engineStep_phase_ne_comp m
  have hhash := d.engineStep_hash
  have hcache := d.engineStep_cache
  have hcount : d.engineStep.count = BitVec.ofNat 64 m.length := d.engineStep_count.trans h.count
  by_cases hp : d.phase = .comp
  · rw [if_pos hp] at hhash hcache
    have hlen : 64 * d.blocksDone m + 64 ≤ m.length := by
      have hfull := hfull hp
      rw [h.cache, List.length_drop] at hfull
      omega
    have hnext : m.length / 64 = d.blocksDone m + 1 := by
      rw [Device.blocksDone_of_comp hp] at hlen ⊢; omega
    refine ⟨?_, ?_, hcount⟩
    · rw [hhash, hdone, hnext, hashBlocks_add, ← h.hash, ← h.cache]; rfl
    · rw [hcache, hdone, hnext, h.cache, List.drop_drop, Nat.mul_succ]
  · rw [if_neg hp] at hhash hcache
    rw [← Device.blocksDone_of_ne_comp hp m] at hdone
    exact ⟨by rw [hhash, hdone, h.hash], by rw [hcache, hdone, h.cache], hcount⟩

/-- Once every step due is taken the block holds the message that it carries. -/
theorem Device.Carries.settle (h : d.Carries m) (hfull : d.phase = .comp → 64 ≤ d.cache.length) : d.settle.Holds m :=
  Device.holds_iff.2 ⟨Device.settle_phase,
    (h.engineStep hfull).engineStep fun hcomp => absurd hcomp Device.engineStep_phase_ne_comp⟩

/-! ### The digest -/

/-- The cached bytes of a held message are what is left beyond its whole blocks (R26). -/
theorem Device.Holds.cache_length (h : d.Holds m) : d.cache.length = d.count.toNat % 64 := by
  rw [h.cache, h.count, List.length_drop, BitVec.toNat_ofNat]; omega

/-- The fold over the final blocks goes on from the fold over the message's whole blocks (R165). -/
theorem Device.Holds.finalDigest (h : d.Holds m) : finalDigest d.hash d.cache d.count = sha256 m := by
  have hle : 64 * (m.length / 64) ≤ m.length := Nat.mul_div_le ..
  have htail : (m ++ pad d.count).drop (64 * (m.length / 64)) = d.cache ++ pad d.count := by
    rw [List.drop_append_of_le_length hle, h.cache]
  have hblocks : (m ++ pad d.count).length / 64 = m.length / 64 + (d.cache ++ pad d.count).length / 64 := by
    rw [← htail, List.length_drop, List.length_append]; omega
  calc Machine.finalDigest d.hash d.cache d.count
      = hashBlocks ((d.cache ++ pad d.count).length / 64) (hashBlocks (m.length / 64) iv (m ++ pad d.count))
          ((m ++ pad d.count).drop (64 * (m.length / 64))) := by
        rw [htail, hashBlocks_append hle, ← h.hash, Machine.finalDigest]
    _ = hashBlocks ((m ++ pad d.count).length / 64) iv (m ++ pad d.count) := by rw [hblocks, hashBlocks_add]
    _ = sha256 m := by rw [sha256, h.count]

/-- What DIGEST's engine steps publish is the digest of the block's H, CACHE and COUNT (R157, R162, R163). -/
theorem Device.finalHash_acceptDigest (hlen : d.cache.length = d.count.toNat % 64) :
    d.acceptDigest.finalHash = finalDigest d.hash d.cache d.count := by
  rw [Device.finalHash, Device.acceptDigest_fb, Device.acceptDigest_hf]
  rcases append_pad_length hlen ▸ finalLength_eq_or d.cache with hone | htwo
  · rw [if_neg (by rw [hone]; decide), finalDigest_of_one_block _ hone]
  · rw [if_pos htwo, finalDigest_of_two_blocks _ htwo]

end

end Sys2Proof.Machine
end

section
/-! PROOF. Held messages and their digests: INIT, FEED and DIGEST over a held message (O51 to O55), the two examples of digests
(O7, O10), and the message over every step (O56). -/

namespace Sys2Proof.Machine

/-! ### INIT -/

section
variable {s : State} (hp : s.dev.phase = .idle)
include hp

/-- After INIT the block holds the empty message (R154, R165). -/
theorem exec_init_holds : ∃ t : State, exec .init s = .next t ∧ t.dev.Holds [] :=
  ⟨_, exec_rest .init hp, hp, rfl, rfl, rfl⟩

/-- After INIT and FEED 3 of "abc" the block holds "abc". -/
theorem exec_init_feed_holds_abc :
    ∃ t u : State, exec .init s = .next t ∧ exec (.feed 2) (t.setDev { t.dev with dataIn := 0x61626300 }) = .next u ∧
      u.dev.Holds [0x61, 0x62, 0x63] := by
  obtain ⟨t, u, hinit, hfeed, hrest, hhash, hcache, hcount⟩ := exec_init_feed_abc hp
  exact ⟨t, u, hinit, hfeed, hrest, hhash, hcache, hcount⟩

end

theorem Device.reset_holds : Device.reset.Holds [] :=
  Device.holds_iff.2 ⟨rfl, Device.reset_atResetValues.carries_nil⟩

/-- Settles O53: the reset values, and INIT's acceptance, are the empty message's. -/
theorem initHoldsEmptyMessage : Obligations.InitHoldsEmptyMessage :=
  ⟨Device.reset_holds, fun _ => exec_init_holds⟩

/-! ### FEED -/

/-- Settles O51: the message carried after FEED's acceptance is held once the engine is done. -/
theorem feedExtendsMessage : Obligations.FeedExtendsMessage := by
  intro s m len hholds
  obtain ⟨hp, hcarries⟩ := Device.holds_iff.1 hholds
  refine ⟨_, exec_rest (.feed len) hp, (hcarries.acceptFeed hp len).settle (Device.acceptFeed_full hp)⟩

/-- A host that follows R206 over a list of feeds extends the held message by their bytes. -/
theorem runFeeds_holds {s : State} {m : List Byte} (cs : List (BitVec 2 × Word)) (h : s.dev.Holds m) :
    ∃ t : State, runFeeds cs s = .next t ∧ t.dev.Holds (m ++ chunkBytes cs) := by
  induction cs generalizing s m with
  | nil => exact ⟨s, rfl, by simpa [chunkBytes] using h⟩
  | cons c cs ih =>
    obtain ⟨hp, hcarries⟩ := Device.holds_iff.1 h
    have hloaded : (s.setDev { s.dev with dataIn := c.2 }).dev.Holds m := Device.holds_iff.2 ⟨hp, hcarries.setDataIn c.2⟩
    obtain ⟨t, hexec, hholds⟩ := feedExtendsMessage _ m c.1 hloaded
    obtain ⟨u, hrun, hu⟩ := ih (s := t.setDev t.dev.settle) hholds
    refine ⟨u, ?_, by rwa [chunkBytes_cons, ← List.append_assoc]⟩
    rw [runFeeds, hexec]
    exact hrun

/-! ### DIGEST -/

section
variable (d : Device)

/-- The engine's steps after DIGEST leave H and CACHE as they were (R164). -/
theorem Device.engineStep_acceptDigest_hash : d.acceptDigest.engineStep.hash = d.hash := by
  simp [Device.engineStep_hash]

theorem Device.engineStep_acceptDigest_cache : d.acceptDigest.engineStep.cache = d.cache := by
  simp [Device.engineStep_cache]

theorem Device.settle_acceptDigest_digest : d.acceptDigest.settle.digest = d.acceptDigest.finalHash :=
  Device.settle_digest_of_fin1 rfl

theorem Device.settle_acceptDigest_dvalid : d.acceptDigest.settle.dvalid = true := Device.settle_dvalid_of_fin1 rfl

theorem Device.finalHash_congr {d e : Device} (hhf : e.hf = d.hf) (hfb : e.fb = d.fb) : e.finalHash = d.finalHash := by
  rw [Device.finalHash, Device.finalHash, hhf, hfb]

end

/-- Settles O52: what DIGEST completes with is `finalDigest`, and of a held message that is SHA256. -/
theorem digestOfHeldMessageIsSha256 : Obligations.DigestOfHeldMessageIsSha256 := by
  intro s m hholds
  obtain ⟨hp, hcarries⟩ := Device.holds_iff.1 hholds
  refine ⟨_, exec_rest .digest hp, s.dev.settle_acceptDigest_dvalid, ?_, (hcarries.acceptDigest hp).settle nofun⟩
  exact s.dev.settle_acceptDigest_digest.trans
    ((Device.finalHash_acceptDigest hholds.cache_length).trans hholds.finalDigest)

/-- Settles O54: the digest is a function of H, COUNT and CACHE, and DIGEST's engine steps write none of them. -/
theorem digestIsNonDestructive : Obligations.DigestIsNonDestructive := by
  intro s hp
  refine ⟨_, exec_rest .digest hp, Device.settle_phase, s.dev.engineStep_acceptDigest_hash, Device.engineStep_count _,
    s.dev.engineStep_acceptDigest_cache, Device.settle_hash.trans s.dev.engineStep_acceptDigest_hash, Device.settle_count,
    Device.settle_cache.trans s.dev.engineStep_acceptDigest_cache, Device.settle_err, fun s' hp' hhash hcount hcache => ?_⟩
  have hfinal : s'.dev.acceptDigest.finalHash = s.dev.acceptDigest.finalHash :=
    Device.finalHash_congr hhash (by rw [Device.acceptDigest_fb, hcache, hcount, Device.acceptDigest_fb])
  exact ⟨_, exec_rest .digest hp', s'.dev.settle_acceptDigest_digest.trans
    (hfinal.trans s.dev.settle_acceptDigest_digest.symm), s'.dev.settle_acceptDigest_dvalid⟩

/-- From the empty message on, a list of feeds and then a DIGEST give the SHA256 of the bytes fed (R165, R206). -/
theorem runFeeds_digest (cs : List (BitVec 2 × Word)) {t : State} (h : t.dev.Holds []) :
    ∃ u v : State, runFeeds cs t = .next u ∧ u.dev.Holds (chunkBytes cs) ∧ exec .digest u = .next v ∧
      v.dev.settle.dvalid = true ∧ v.dev.settle.digest = sha256 (chunkBytes cs) := by
  obtain ⟨u, hrun, hu⟩ := runFeeds_holds cs h
  obtain ⟨v, hexec, hvalid, hdigest, -⟩ := digestOfHeldMessageIsSha256 u _ hu
  exact ⟨u, v, hrun, hu, hexec, hvalid, hdigest⟩

/-- Settles O55: INIT and reset leave the block holding the empty message. -/
theorem anySplitHashesToSha256 : Obligations.AnySplitHashesToSha256 := by
  refine fun cs => ⟨fun s hp => ?_, runFeeds_digest cs Device.reset_holds⟩
  obtain ⟨t, hinit, ht⟩ := exec_init_holds hp
  obtain ⟨u, v, h⟩ := runFeeds_digest cs ht
  exact ⟨t, u, v, hinit, h⟩

/-! ### The examples -/

/-- SHA256 of no bytes (R154). -/
theorem sha256_nil : sha256 [] =
    #v[0xE3B0C442, 0x98FC1C14, 0x9AFBF4C8, 0x996FB924, 0x27AE41E4, 0x649B934C, 0xA495991B, 0x7852B855] := by
  decide +kernel

/-- SHA256 of "abc" (R157). -/
theorem sha256_abc : sha256 [0x61, 0x62, 0x63] =
    #v[0xBA7816BF, 0x8F01CFEA, 0x414140DE, 0x5DAE2223, 0xB00361A3, 0x96177A9C, 0xB410FF61, 0xF20015AD] := by
  decide +kernel

/-- Settles O7: INIT's acceptance, and the digest of the empty message that the block then holds. -/
theorem initReconstructs : Obligations.InitReconstructs := by
  refine ⟨fun s hp => exec_rest .init hp, exec_rest .init rfl, fun s hp => ?_⟩
  obtain ⟨t, hinit, ht⟩ := exec_init_holds hp
  obtain ⟨u, hexec, -, hdigest, hu⟩ := digestOfHeldMessageIsSha256 t [] ht
  exact ⟨t, u, hinit, hexec, hu.rest, hdigest.trans sha256_nil⟩

section
variable {d : Device} (hlen : d.cache.length = d.count.toNat % 64)
include hlen

/-- DIGEST makes two final blocks from 56 cached bytes on (R116, R157). -/
theorem Device.acceptDigest_fb_length_iff : d.acceptDigest.fb.length = 128 ↔ 56 ≤ d.cache.length := by
  rw [Device.acceptDigest_fb, append_pad_length hlen, finalLength]
  split <;> omega

/-- The engine's first step after DIGEST is the last one exactly up to 55 cached bytes. -/
theorem Device.engineStep_acceptDigest_phase :
    d.acceptDigest.engineStep.phase = if 56 ≤ d.cache.length then .fin2 else .idle := by
  simp only [Device.engineStep_phase, Device.acceptDigest_phase, Device.acceptDigest_fb_length_iff hlen, true_and]

theorem Device.engineStep_acceptDigest_dvalid :
    d.acceptDigest.engineStep.dvalid = decide (d.cache.length < 56) := by
  simp [Device.engineStep_dvalid, Device.acceptDigest_fb_length_iff hlen, -Device.acceptDigest_fb]

end

/-- Settles O10: DIGEST's acceptance, one or two engine steps by the length of FB, and the digest of "abc", which the
block then holds. -/
theorem digestSnapshots : Obligations.DigestSnapshots := by
  intro s hp t
  have hdev : t.dev = s.dev.acceptDigest := rfl
  refine ⟨exec_rest .digest hp, fun hlen => ?_, ?_⟩
  · have hphase := Device.engineStep_acceptDigest_phase hlen
    have hdvalid := Device.engineStep_acceptDigest_dvalid hlen
    rw [hdev]
    refine ⟨fun hone => ?_, fun htwo => ?_⟩
    · rw [hphase, hdvalid, if_neg (by omega), decide_eq_true (by omega)]
      exact ⟨rfl, rfl, Device.engineStep_err⟩
    · rw [hphase, hdvalid, if_pos htwo, decide_eq_false (by omega)]
      exact ⟨rfl, rfl, Device.settle_phase, s.dev.settle_acceptDigest_dvalid, Device.settle_err⟩
  · obtain ⟨u, v, hinit, hfeed, hv⟩ := exec_init_feed_holds_abc hp
    obtain ⟨w, hexec, hvalid, hdigest, -⟩ := digestOfHeldMessageIsSha256 v _ hv
    exact ⟨u, v, w, hinit, hfeed, hexec, hvalid, hdigest.trans sha256_abc⟩

/-! ### The message over a step -/

/-- The step out of this state is the acceptance of the command i: the host's turn, a CMD write of i's word,
and the block at rest. -/
def State.Accepts (s : State) (i : Instr) : Prop :=
  s.popTurn.1 = .host ∧ s.dev.phase = .idle ∧ ∃ v : Word, s.host.nextLine = some (.wr 0x08 v) ∧ decode v = .ok i

section
variable {s t : State} {i : Instr} {m : List Byte}

theorem State.messageAfter_of_reset (hpin : t.rstN = false) : s.messageAfter t m = [] := if_pos hpin

theorem State.messageAfter_of_accepts (hpin : t.rstN = true) (h : s.Accepts i) :
    s.messageAfter t m = messageOf i s.dev.dataIn m := by
  obtain ⟨turn, phase, v, line, word⟩ := h
  simp [State.messageAfter, hpin, turn, phase, line, word]

theorem State.messageAfter_of_not_accepts (hpin : t.rstN = true) (h : ∀ i, ¬ s.Accepts i) : s.messageAfter t m = m := by
  unfold State.messageAfter
  rw [if_neg (by simp [hpin])]
  split
  · next v turn line phase =>
    cases word : decode v with
    | error r => rfl
    | ok i => exact absurd ⟨turn, phase, v, line, word⟩ (h i)
  · rfl

/-- An aligned host write while reset is held leaves the block in reset (R201). -/
theorem State.hostWrite_held {o : BitVec 8} (v : Word) (hheld : s.rstN = false) (hseen : s.resetSeen = true)
    (halign : o.extractLsb' 0 2 = 0) : s.hostWrite o v = .next (s.setDev Device.reset) := by
  simp [State.hostWrite, State.accessRefused, halign, hseen, State.clockEdge, State.accessPins, hheld]

/-- A command is accepted by the step that its CMD write takes, unless reset is held (R96, R201). -/
theorem step_of_accepts (hstep : step s = .next t) (hseen : s.resetSeen = true) (hpin : t.rstN = true) (h : s.Accepts i) :
    t.dev = acceptOf i s.dev := by
  obtain ⟨turn, phase, v, line, word⟩ := h
  have hrst : s.rstN = true := by
    by_contra hheld
    rw [step_of_host_line turn line, State.runLine,
      State.hostWrite_held v (by simpa using hheld) (by simpa using hseen) rfl] at hstep
    cases hstep
    exact hheld (by simpa using hpin)
  rw [step_of_host_line turn line, State.runLine, State.hostWrite_cmd v (by simpa using hrst) (by simpa using hseen),
    State.writeCmd_of_decode word, exec_rest i (by simpa using phase)] at hstep
  cases hstep
  simp

/-- Any other step out of reset leaves the message alone. -/
theorem BlockStep.carries_of_not_accepts (hstep : BlockStep s t) (hinv : s.dev.Inv) (hcarries : s.dev.Carries m)
    (hpin : t.rstN = true) (hp : ∀ d : Device, s.popTurn.1 ≠ .powerUp d) (h : ∀ i, ¬ s.Accepts i) : t.dev.Carries m := by
  cases hstep with
  | quiet dev _ _ => exact dev ▸ hcarries
  | dataIn v _ _ _ _ dev => exact dev ▸ hcarries.setDataIn v
  | busy _ _ _ _ dev => exact dev ▸ hcarries.raise _
  | rejected _ _ _ _ _ _ _ _ dev => exact dev ▸ hcarries.raise _
  | accepted v i turn _ _ phase line word _ => exact absurd ⟨turn, phase, v, line, word⟩ (h i)
  | engine _ _ _ dev => exact dev ▸ hcarries.engineStep fun hcomp => (hinv.cache_of_comp hcomp).1
  | reset pin _ _ => cases hpin.symm.trans pin
  | powerUp d turn _ _ _ => exact absurd turn (hp d)

/-- Every step but power-up makes of the message what `messageAfter` says (R165). -/
theorem step_carries (hstep : step s = .next t) (hinv : s.Inv) (hseen : s.resetSeen = true) (hcarries : s.dev.Carries m)
    (hp : ∀ d : Device, s.popTurn.1 ≠ .powerUp d) : t.dev.Carries (s.messageAfter t m) := by
  cases hpin : t.rstN with
  | false =>
    rw [State.messageAfter_of_reset hpin]
    exact ((stepKeepsInvariant s t hinv hstep).held hpin).1.carries_nil
  | true =>
    by_cases haccepts : ∃ i, s.Accepts i
    · obtain ⟨i, hi⟩ := haccepts
      rw [State.messageAfter_of_accepts hpin hi, step_of_accepts hstep hseen hpin hi]
      exact hcarries.acceptOf hi.2.1 i
    · have hnone := not_exists.1 haccepts
      rw [State.messageAfter_of_not_accepts hpin hnone]
      exact (step_cases hstep).1.carries_of_not_accepts (hinv.device hseen) hcarries hpin hp hnone

end

/-- Settles O56: reset carries the empty message, `step_carries`, and at rest what is carried is held. -/
theorem everyRunHashesItsMessage : Obligations.EveryRunHashesItsMessage := by
  refine ⟨⟨Device.reset_atResetValues.carries_nil, invariantAtReset, rfl⟩, fun s t m hinv hseen hcarries hstep hp => ?_,
    fun s m hp hcarries => ?_, fun d m hinv hcarries hread j => ?_⟩
  · exact ⟨step_carries hstep hinv hseen hcarries hp, stepKeepsInvariant s t hinv hstep,
      step_keeps_resetSeen hstep hp hseen⟩
  · have hholds := Device.holds_iff.2 ⟨hp, hcarries⟩
    obtain ⟨t, hexec, hvalid, hdigest, -⟩ := digestOfHeldMessageIsSha256 s m hholds
    exact ⟨hholds.hash, hholds.cache, hholds.count, t, hexec, hvalid, hdigest⟩
  · have hholds := Device.holds_iff.2 ⟨(hinv.digest hread.2).1, hcarries⟩
    rw [readableDigestIsCurrent d hinv hread j, hholds.finalDigest]

end Sys2Proof.Machine
end

section
/-! PROOF. Errors: the first is kept (O13), BUSY refuses every command (O12), what changes ERR over a step (O48), and the STATUS read
of a code that is never produced (O32). -/

namespace Sys2Proof.Machine

/-! ### Recording an error -/

/-- Settles O13: the two branches of `raise`, and R182's codes. -/
theorem firstErrorIsKept : Obligations.FirstErrorIsKept :=
  fun _ _ => ⟨fun hclear => if_pos hclear, fun hset => if_neg hset, rfl, rfl, rfl, rfl⟩

/-- Settles O12: a CMD write looks at BUSY before the word, and a command begins with the same test. -/
theorem busyRefusesEveryCommand : Obligations.BusyRefusesEveryCommand :=
  fun s hp => ⟨fun _ => State.writeCmd_busy ((Device.busy_eq_true_iff s.dev).2 hp), fun i => exec_busy i hp⟩

/-! ### What changes ERR -/

theorem ErrCode.one_le_code (c : ErrCode) : 1 ≤ c.code.toNat := by cases c <;> decide

section
variable {d : Device}

/-- Where `raise` changes ERR, it was 0 and is a code of 1 to 4 (R182, R183). -/
theorem Device.raise_err_of_ne {c : ErrCode} (h : (d.raise c).err ≠ d.err) :
    d.err = 0 ∧ 1 ≤ (d.raise c).err.toNat ∧ (d.raise c).err.toNat ≤ 4 := by
  by_cases hclear : d.err = 0
  · rw [Device.raise_err, if_pos hclear]
    exact ⟨hclear, c.one_le_code, c.code_le⟩
  · exact absurd (by rw [Device.raise_err, if_neg hclear]) h

/-- Where an accepted command changes ERR, it is INIT or CLRERR, which clear it, or it records an error, as FEED does (R154, R155,
R158). -/
theorem acceptOf_err_cases {i : Instr} (h : (acceptOf i d).err ≠ d.err) :
    ((i = .init ∨ i = .clrerr) ∧ (acceptOf i d).err = 0) ∨
      (d.err = 0 ∧ 1 ≤ (acceptOf i d).err.toNat ∧ (acceptOf i d).err.toNat ≤ 4) := by
  cases i with
  | init => exact .inl ⟨.inl rfl, rfl⟩
  | clrerr => exact .inl ⟨.inr rfl, rfl⟩
  | feed len =>
    simp only [acceptOf, Device.acceptFeed_err] at h ⊢
    split_ifs at h ⊢ with hlength
    · exact .inr (Device.raise_err_of_ne h)
    · exact absurd rfl h
  | nop | digest => exact absurd rfl h

end

/-- Settles O48, by the cases of a step: a refused or rejected command raises an error, an accepted one may raise or clear, reset
clears, and no other step writes ERR. -/
theorem errChangesOnlyAsTold : Obligations.ErrChangesOnlyAsTold := by
  intro s t hstep hne hp
  cases (step_cases hstep).1 with
  | quiet dev _ _ | dataIn _ _ _ _ _ dev | engine _ _ _ dev => exact absurd (by simp [dev]) hne
  | busy turn _ _ _ dev | rejected _ _ turn _ _ _ _ _ dev =>
    rw [dev] at hne ⊢
    exact .inl ⟨turn, Device.raise_err_of_ne hne⟩
  | accepted v i turn _ _ phase line word dev =>
    rw [dev] at hne ⊢
    rcases acceptOf_err_cases hne with ⟨hi, hclear⟩ | hraised
    · obtain rfl := encode_of_decode word
      refine .inr (.inl ⟨turn, phase, hclear, ?_⟩)
      rcases hi with rfl | rfl
      · exact .inl line
      · exact .inr line
    · exact .inl ⟨turn, hraised⟩
  | reset pin _ dev => exact .inr (.inr ⟨pin, by rw [dev]; rfl⟩)
  | powerUp d turn _ _ _ => exact absurd turn (hp d)

/-! ### The STATUS read of a reserved code -/

/-- A code of 5 to 15 stops a read of STATUS (R182, U14). -/
theorem Device.readStatus_of_reserved {d : Device} (h : 5 ≤ d.err.toNat) : d.readStatus = .error .reservedErrorCode :=
  if_pos h

/-- Settles O32: index 1 is STATUS, whose read tests ERR. -/
theorem reservedErrorCodeFaults : Obligations.ReservedErrorCodeFaults := by
  intro d
  rw [d.busRead_status]
  exact ⟨Device.readStatus_of_reserved, fun h => ⟨d.statusWord, Device.readStatus_of_le h⟩⟩

end Sys2Proof.Machine
end

section
/-! PROOF. Instances share nothing (O59). -/

namespace Sys2Proof.Machine

/-- Inversion of a step of one instance: the instance is there, takes its own step, and only its place in the system is written. -/
theorem System.stepInstance_cases {sys sys' : System} {k : Nat} (h : sys.stepInstance k = .next sys') :
    ∃ s s' : State, sys[k]? = some s ∧ step s = .next s' ∧ sys' = sys.set k s' := by
  unfold System.stepInstance at h
  split at h
  · cases h
  · next s hs =>
    split at h
    · next s' hstep => exact ⟨s, s', hs, hstep, (Host.Outcome.next.inj h).symm⟩
    · cases h
    · cases h

/-- Settles O59: the system after the step differs at place k alone. -/
theorem instancesShareNothing : Obligations.InstancesShareNothing := by
  intro sys sys' k h
  obtain ⟨s, s', hs, hstep, rfl⟩ := System.stepInstance_cases h
  obtain ⟨hk, -⟩ := List.getElem?_eq_some_iff.1 hs
  exact ⟨List.length_set, fun j hj => List.getElem?_set_ne hj.symm, s, s', hs, List.getElem?_set_self hk, hstep⟩

end Sys2Proof.Machine
end

section
/-! PROOF. Reset: its values (O40), the edge with `rst_n` low (O41), and the bus around it (O42). -/

namespace Sys2Proof.Machine

/-- Settles O40: the stated values are those of `Device.reset_atResetValues`; with them every field of STATUS is 0. -/
theorem resetValues : Obligations.ResetValues := by
  have h := Device.reset_atResetValues
  exact ⟨h.hash, h.count, h.cache, h.dataIn, h.digest, (Device.busy_eq_false_iff _).2 h.phase, h.dvalid, h.phase, h.err,
    rfl, rfl, rfl⟩

section
variable {s : State} {o : BitVec 8}

/-! ### The turns of the reset pin and of power-up -/

/-- A clock edge of the reset pin is the step in every state and phase (R201, R203). -/
theorem step_of_rst {level : Bool} (hturn : s.popTurn.1 = .rst level) :
    step s = .next (s.popTurn.2.driveReset level) := by
  rw [step, hturn, takeTurn]

theorem step_of_powerUp {d : Device} (hturn : s.popTurn.1 = .powerUp d) : step s = .next (s.popTurn.2.powerUp d) := by
  rw [step, hturn, takeTurn]

/-! ### Accesses while reset is held, and before the first reset -/

/-- An aligned host read while reset is held returns 0 and leaves the block in reset (R201). -/
theorem State.hostRead_held (x : Nat) (hheld : s.rstN = false) (hseen : s.resetSeen = true)
    (halign : o.extractLsb' 0 2 = 0) :
    s.hostRead o x = .next ((s.setHost { s.host with vars := assignVar x 0 s.host.vars }).setDev Device.reset) := by
  simp [State.hostRead, State.accessRefused, halign, hseen, Device.busRdata, State.accessPins, hheld, State.clockEdge]

/-- An aligned access before the first reset is refused (R201). -/
theorem State.accessRefused_beforeReset (hseen : s.resetSeen = false) (halign : o.extractLsb' 0 2 = 0) :
    s.accessRefused o = some .beforeFirstReset := by
  simp [State.accessRefused, halign, hseen]

theorem State.hostWrite_beforeReset (v : Word) (hseen : s.resetSeen = false) (halign : o.extractLsb' 0 2 = 0) :
    s.hostWrite o v = .refused .beforeFirstReset := by
  rw [State.hostWrite, State.accessRefused_beforeReset hseen halign]

theorem State.hostRead_beforeReset (x : Nat) (hseen : s.resetSeen = false) (halign : o.extractLsb' 0 2 = 0) :
    s.hostRead o x = .refused .beforeFirstReset := by
  rw [State.hostRead, State.accessRefused_beforeReset hseen halign]

end

/-- Settles O41: the edge drives reset, whatever the block was doing. -/
theorem resetFromEveryState : Obligations.ResetFromEveryState := by
  intro s hturn
  exact ⟨_, step_of_rst hturn, Device.reset_atResetValues, rfl, rfl, s.popTurn_host, rfl⟩

/-- Settles O42: a held access resets the block again, the pin's rise and power-up are turns of their own, and an access before
the first reset is refused as it is made. -/
theorem busAroundReset : Obligations.BusAroundReset := by
  refine ⟨fun s hheld hseen hturn => ⟨fun offset v hline halign => ?_, fun offset x hline halign => ?_⟩,
    fun s hturn => ?_, fun s d hturn => ⟨_, step_of_powerUp hturn, rfl, rfl⟩,
    fun s hseen hturn => ⟨fun offset v hline halign => ?_, fun offset x hline halign => ?_⟩⟩
  · refine ⟨_, (step_of_host_line hturn hline).trans (State.hostWrite_held v ?_ ?_ halign),
      Device.reset_atResetValues, ?_⟩ <;> simp [hheld, hseen]
  · refine ⟨_, (step_of_host_line hturn hline).trans (State.hostRead_held x ?_ ?_ halign),
      Device.reset_atResetValues, ?_, lookupVar_assignVar_same x 0 _⟩ <;> simp [hheld, hseen]
  · exact ⟨_, step_of_rst hturn, s.popTurn_dev, rfl, s.popTurn_resetSeen⟩
  · exact (step_of_host_line hturn hline).trans (State.hostWrite_beforeReset v (by simpa using hseen) halign)
  · exact (step_of_host_line hturn hline).trans (State.hostRead_beforeReset x (by simpa using hseen) halign)

end Sys2Proof.Machine
end

section
/-! PROOF. The end of a run (O60), by the default turn. -/

namespace Sys2Proof.Machine

/-- With no turn scheduled, a halted machine at rest stays as it is: the default turn is a host's that has no line. -/
theorem step_of_runOver {s : State} (hsched : s.schedule = []) (hover : s.runOver) : step s = .next s := by
  obtain ⟨hhalt, hrest⟩ := hover
  have hpop : s.popTurn = (.host, s) := by simp [State.popTurn, hsched, State.defaultTurn, hrest]
  rw [step, hpop, takeTurn, State.hostTurn, HostAgent.nextLine_of_halted hhalt]

/-- A busy block is changed by its engine's step, which takes one compression off the work due (R170). -/
theorem Device.engineStep_ne_of_busy {d : Device} (hbusy : d.busy = true) : d.engineStep ≠ d := by
  intro hsame
  have hless := d.compressionsDue_engineStep
  rw [hsame] at hless
  have hrest : d.busy = false := d.compressionsDue_eq_zero_iff.1 (by omega)
  exact absurd hbusy (by simp [hrest])

/-- Settles O60: a halted run that is not over has BUSY = 1, and `step_of_busy` takes the engine's step. -/
theorem finishedRunStays : Obligations.FinishedRunStays := by
  refine fun s hsched hhalt => ⟨step_of_runOver hsched, fun hnot hseen hrst => ?_⟩
  have hbusy : s.dev.busy = true := Bool.of_not_eq_false fun hrest => hnot ⟨hhalt, hrest⟩
  exact ⟨step_of_busy hseen hrst hsched hbusy, Device.engineStep_ne_of_busy hbusy⟩

end Sys2Proof.Machine
end
